-- ==== Sys2Proof/Word.lean ====
section
/-! DEFINITION. The word type. The spec fixes the instruction at 32 bits (30_encoding.md R60); that addresses are
32 bits wide is taken from the family (log 2). -/

namespace Sys2Proof

/-- 32 bits: an instruction in the bit order of its diagram (R14), or an address. -/
abbrev Word := BitVec 32

/-- One 16-bit unit of a T32 instruction (R14). -/
abbrev Halfword := BitVec 16

/-- `hw1 : hw2`, the 32 diagram bits of a T32 instruction, the first halfword in bits 31:16 (R14, R22). -/
def ofHalfwords (hw1 hw2 : Halfword) : Word := hw1 ++ hw2

end Sys2Proof
end

