-- ==== Sys2Proof/Syntax.lean ====
section
/-! DEFINITION. The instruction as syntax: one constructor for each row of spec/opcode_table.json
(30_encoding.md R50, R54). -/

namespace Sys2Proof

/-- The two AArch32 instruction sets (R2, R21). -/
inductive InstrSet where
  /-- 32-bit instructions (`form="32"`). -/
  | a32
  /-- instructions of 16-bit units (`form="16x2"`). -/
  | t32
deriving DecidableEq, Repr, Inhabited

/-- `SMC`, its two encodings. The operands are the named fields of the diagrams. `sbz` is the box `imm12` of
twelve "(0)" cells: no operand (90_conflicts.md C5), kept because a word with one of them set still decodes as
`SMC` (R53, R56). -/
inductive Instr where
  /-- `SMC` A1 (A32), table row `SMC_A1_AS`, rule R70. -/
  | smcA1 (cond : BitVec 4) (sbz : BitVec 12) (imm4 : BitVec 4)
  /-- `SMC` T1 (T32), table row `SMC_T1_AS`, rule R71. -/
  | smcT1 (imm4 : BitVec 4) (sbz : BitVec 12)
deriving DecidableEq, Repr

/-- The instruction set an encoding belongs to (R2). -/
def Instr.isa : Instr → InstrSet
  | .smcA1 _ _ _ => .a32
  | .smcT1 _ _ => .t32

/-- The twelve should-be-zero bits (R53, R56). -/
def Instr.sbz : Instr → BitVec 12
  | .smcA1 _ z _ => z
  | .smcT1 _ z => z

/-- The immediate (R58). -/
def Instr.imm4 : Instr → BitVec 4
  | .smcA1 _ _ n => n
  | .smcT1 n _ => n

/-- The same instruction with another immediate (R81 compares two such). -/
def Instr.withImm4 (n : BitVec 4) : Instr → Instr
  | .smcA1 c z _ => .smcA1 c z n
  | .smcT1 _ z => .smcT1 n z

end Sys2Proof
end

