-- ==== Sys2Proof/WellFormed.lean ====
section
/-! DEFINITION. Which instruction terms have an encoding, and which of those an assembler may write. -/

namespace Sys2Proof

/-- The term has an encoding: `cond != '1111'` in A1 (R50, R52); T1 has no constraint (R54). -/
def Instr.wf : Instr → Bool
  | .smcA1 c _ _ => c != 0b1111#4
  | .smcT1 _ _ => true

/-- The term is one an assembler may write: well-formed, and every "(0)" bit zero (R53, R113). -/
def Instr.canonical (i : Instr) : Bool :=
  i.wf && i.sbz == 0#12

end Sys2Proof
end

