-- ==== Sys2Proof/Decode.lean ====
section
/-! DEFINITION. The decoder (total, rejecting by name) and the encoder, from the diagrams of 30_encoding.md. Both work
on the 32 diagram bits (R14, R41): an A32 word, or `hw1 : hw2` of a T32 instruction. -/

namespace Sys2Proof

/-- Why 32 bits are not an `SMC` of the instruction set they are read in (R61). -/
inductive Reject where
  /-- A32: a fixed bit of the A1 pattern differs (R51, R65). -/
  | notA1
  /-- A32: the A1 fixed bits with `cond == '1111'` (R52). -/
  | condIs1111
  /-- T32: a fixed bit of the T1 pattern differs (R55, R65). -/
  | notT1
deriving DecidableEq, Repr

/-- The answer of the decoder: the instruction, or the reason why there is none. -/
inductive Decoded where
  | instr (i : Instr)
  | reject (r : Reject)
deriving DecidableEq, Repr

/-- The A1 fixed bits 27:20 and 7:4 (R51). -/
def matchesA1 (w : Word) : Bool := (w &&& 0x0FF000F0#32) == 0x01600070#32

/-- The T1 fixed bits 31:20 and 15:12 (R55). -/
def matchesT1 (w : Word) : Bool := (w &&& 0xFFF0F000#32) == 0xF7F08000#32

/-- `cond = w[31:28]` (R51). -/
def condA1 (w : Word) : BitVec 4 := w.extractLsb' 28 4

/-- `sbz = w[19:8]` (R51). -/
def sbzA1 (w : Word) : BitVec 12 := w.extractLsb' 8 12

/-- `imm4 = w[3:0]` (R51). -/
def imm4A1 (w : Word) : BitVec 4 := w.extractLsb' 0 4

/-- `imm4 = hw1[3:0] = v[19:16]` (R55). -/
def imm4T1 (w : Word) : BitVec 4 := w.extractLsb' 16 4

/-- `sbz = hw2[11:0] = v[11:0]` (R55). -/
def sbzT1 (w : Word) : BitVec 12 := w.extractLsb' 0 12

/-- The A32 decoder (R51, R52, R61). -/
def decodeA32 (w : Word) : Decoded :=
  if matchesA1 w then
    if condA1 w = 0b1111#4 then .reject .condIs1111
    else .instr (.smcA1 (condA1 w) (sbzA1 w) (imm4A1 w))
  else .reject .notA1

/-- The T32 decoder (R55, R61); it is handed both halfwords (R60). -/
def decodeT32 (w : Word) : Decoded :=
  if matchesT1 w then .instr (.smcT1 (imm4T1 w) (sbzT1 w))
  else .reject .notT1

/-- The decoder: a PE executing A32 code can meet only A1, one executing T32 code only T1 (R21). -/
def decode : InstrSet → Word → Decoded
  | .a32, w => decodeA32 w
  | .t32, w => decodeT32 w

/-- The encoder: the boxes of the diagrams in order, most significant first (R50, R54). -/
def encode : Instr → Word
  | .smcA1 cond sbz imm4 =>
      cond ++ 0b00010#5 ++ 0b11#2 ++ 0b0#1 ++ sbz ++ 0b0111#4 ++ imm4
  | .smcT1 imm4 sbz =>
      0b11110111111#11 ++ 0b1#1 ++ imm4 ++ 0b10#2 ++ 0b0#1 ++ 0b0#1 ++ sbz

/-- The diagram bits of a table row's word: its `nbits` bits, every bit above them 0. The table numbers a T1 row with
`hw1` in bits 31:16 (log 21). -/
def tableBits (nbits w : Nat) : Word := (BitVec.ofNat nbits w).setWidth 32

/-- The instruction set whose encoding the bits are, if they are one (no word is both: the fixed bits 27:20 differ). -/
def tableIsa (bits : Word) : Option InstrSet :=
  match decodeA32 bits, decodeT32 bits with
  | .instr _, _ => some .a32
  | _, .instr _ => some .t32
  | _, _ => none

/-- What the decoder reads from a row's word, in the instruction set whose row it is. -/
def decodeTableWord (nbits w : Nat) : Option Instr :=
  match tableIsa (tableBits nbits w) with
  | none => none
  | some isa =>
    match decode isa (tableBits nbits w) with
    | .instr i => some i
    | .reject _ => none

end Sys2Proof
end

