-- ==== Sys2Proof/Config.lean ====
section
/-! DEFINITION. The implementation parameters (00_scope.md section 4) and the free value CU_SMD. The parameters are
plain data held in State and never written by a step (R30, 92 D15), so that a statement over every state is a
statement over every configuration. The open functions of the state stand in Machine/Open.lean. -/

namespace Sys2Proof

/-- `SBZ_policy` (R11, 92 D3): what a PE does with an `SMC` whose "(0)" bits are not all zero. -/
inductive SbzPolicy where
  /-- UNPREDICTABLE, refused: the value the spec fixes. -/
  | refuse
  /-- the bits are ignored. -/
  | ignore
  /-- the instruction is UNDEFINED. -/
  | undefined
deriving DecidableEq, Repr, Inhabited

/-- Which instantiation of `ConditionPassed`, `InITBlock`, `LastInITBlock` is meant (R23, R24, 92 D2). -/
inductive ConditionModel where
  /-- open, as the rules leave them: the answers are the inputs `cp`, `in_it`, `last_it` of R39. -/
  | given
  /-- the standard table and ITSTATE of the informative passages G1, G2 (PRESUMED, log 7). -/
  | standard
deriving DecidableEq, Repr, Inhabited

/-- Which instantiation of the five entry functions is meant (R98). -/
inductive EntryModel where
  /-- open, as R98 leaves them: nothing is fixed but the contract column. -/
  | contract
  /-- the informative bodies G8, G9, G10 of 60_exceptions.md section 4 (PRESUMED, log 9). -/
  | sketch
deriving DecidableEq, Repr, Inhabited

/-- The configuration of the PE: `SmcConfig` of R39, and the parameters of R11, 92 D1, D2. -/
structure SmcConfig where
  /-- `ELUsingAArch32(EL3)` (R7). -/
  el3AArch32 : Bool
  /-- whether EL2 is using AArch32 (R8). -/
  el2AArch32 : Bool
  /-- whether EL3 is implemented (R9; the spec's premise is `true`). -/
  haveEL3 : Bool
  /-- whether EL2 is implemented (R9). -/
  haveEL2 : Bool
  sbzPolicy : SbzPolicy
  condition : ConditionModel
  entry : EntryModel
deriving DecidableEq, Repr, Inhabited

/-- The two permitted results of `ConstrainUnpredictable(Unpredictable_SMD)`: the pseudocode asserts
`c IN {Constraint_NOP, Constraint_UNDEF}` (R10, R77, R84). -/
inductive SmdChoice where
  | constraintNop
  | constraintUndef
deriving DecidableEq, Repr, Inhabited

namespace Config

/-- FREE VALUE (log 10). `CU_SMD`: the choice the PE takes the n-th time an execution reaches
`ConstrainUnpredictable(Unpredictable_SMD)` (R10, R77, 92 D5). Nothing constrains it. -/
opaque smdChoice : Nat → SmdChoice

end Config

end Sys2Proof
end

