-- ==== Sys2Proof/Machine/State.lean ====
section
/-! DEFINITION. The state of the machine as plain data: the configuration, the program text, the processing element
(the PE), and two fields of the model's own. Every field is listed with its rule in INVENTORY.md. -/

namespace Sys2Proof.Machine

open Sys2Proof

/-- The Exception levels (R25). -/
inductive EL where
  | el0 | el1 | el2 | el3
deriving DecidableEq, Repr, Inhabited

/-- `enumeration SecurityState` as the source quotes it (R26). -/
inductive SecurityState where
  | nonSecure | root | realm | secure
deriving DecidableEq, Repr, Inhabited

/-- The Execution state the PE is in. An entry to an Exception level that uses AArch64 leaves the spec (R98). -/
inductive ExecState where
  | aarch32 | aarch64
deriving DecidableEq, Repr, Inhabited

/-- The modes. R26 names User, Hyp, Monitor and the class of EL1 modes; the six names of that class are G3
(PRESUMED, log 26). No rule of `SMC` reads the mode: it matters only through `el` and `ss`. -/
inductive Mode where
  | user | fiq | irq | supervisor | abort | undefined | system | hyp | monitor
deriving DecidableEq, Repr, Inhabited

/-- The processor status that the informative passages G1, G2, G8 name, by fields; CPSR.M and CPSR.T have their home
in `PE.mode` and `PE.iset`. -/
structure Psr where
  /-- N, Z, C, V, the first in bit 3. -/
  nzcv : BitVec 4
  q : BitVec 1
  ge : BitVec 4
  /-- ITSTATE (G2). -/
  it : BitVec 8
  e : BitVec 1
  a : BitVec 1
  i : BitVec 1
  f : BitVec 1
  il : BitVec 1
deriving DecidableEq, Repr, Inhabited

/-- A saved CPSR (G8: `saved = CPSR`). -/
structure SavedPsr where
  mode : Mode
  iset : InstrSet
  psr : Psr
deriving DecidableEq, Repr, Inhabited

/-- The bits of SCTLR that G8 and G9 read. -/
structure Sctlr where
  te : BitVec 1
  ee : BitVec 1
  v : BitVec 1
deriving DecidableEq, Repr, Inhabited

/-- The bits of HSCTLR that G10 reads. -/
structure Hsctlr where
  te : BitVec 1
  ee : BitVec 1
deriving DecidableEq, Repr, Inhabited

/-- HSR by its fields: EC bits 31:26, IL bit 25, ISS below (G10). -/
structure Hsr where
  ec : BitVec 6
  il : BitVec 1
  iss : BitVec 25
deriving DecidableEq, Repr, Inhabited

/-- The component `rest` of 92 D1 (R31, R33, R34): everything the source does not name. The named fields are the
registers of the informative passages, read only where the configuration selects them; `other` is an uninterpreted
number that stands for all the rest (log 27). -/
structure Rest where
  psr : Psr
  scrNs : BitVec 1
  scrEa : BitVec 1
  scrIrq : BitVec 1
  scrFiq : BitVec 1
  hcrTge : BitVec 1
  /-- SCTLR, its Secure copy. -/
  sctlrS : Sctlr
  /-- SCTLR, its Non-secure copy. -/
  sctlrNs : Sctlr
  hsctlr : Hsctlr
  mvbar : Word
  /-- VBAR, its Secure copy. -/
  vbarS : Word
  /-- VBAR, its Non-secure copy. -/
  vbarNs : Word
  hvbar : Word
  lrMon : Word
  lrUnd : Word
  elrHyp : Word
  spsrMon : SavedPsr
  spsrUnd : SavedPsr
  spsrHyp : SavedPsr
  hsr : Hsr
  other : Nat
deriving DecidableEq, Repr, Inhabited

/-- The answers `ConditionPassed()` gives in one state. It is a function of the state and of the instruction bits (R23,
92 D2), and of these bits it reads `cond` in A32 and nothing in T32 (R23; log 6): so one state holds one answer for each
value of `cond`, and one for T1. -/
structure CondAnswers where
  /-- for an A1 instruction, the answer for `cond == c` in bit `c`. -/
  a1 : BitVec 16
  /-- for a T1 instruction, which has no `cond` field. -/
  t1 : Bool
deriving DecidableEq, Repr, Inhabited

/-- One answer for every instruction, as the input `cp` of R39 gives it for the one that is executed. -/
def CondAnswers.always (b : Bool) : CondAnswers :=
  { a1 := if b then BitVec.allOnes 16 else 0, t1 := b }

/-- The state of the PE: the inputs of R20 and R39, the program counter (R32), and `rest`. -/
structure PE where
  /-- the current instruction set (R21). -/
  iset : InstrSet
  /-- the program counter (R32, 92 D9). -/
  pc : Word
  /-- `ConditionPassed()`, by instruction (R23, R39); read when the configuration says `given`. -/
  cp : CondAnswers
  /-- `InITBlock()` (R24, R39); read when the configuration says `given`. -/
  inIT : Bool
  /-- `LastInITBlock()` (R24, R39); read when the configuration says `given`. -/
  lastIT : Bool
  /-- the current Exception level (R25). -/
  el : EL
  /-- the Execution state. -/
  es : ExecState
  /-- the current mode (R26). -/
  mode : Mode
  /-- `CurrentSecurityState()` (R26). -/
  ss : SecurityState
  /-- HCR.TSC (R27). -/
  hcrTsc : BitVec 1
  /-- SCR.SCD (R28). -/
  scrScd : BitVec 1
  /-- SCR_EL3.SMD (R29). -/
  scrEl3Smd : BitVec 1
  rest : Rest
deriving DecidableEq, Repr, Inhabited

/-- The program text (R41): a map from instruction address to the 32 diagram bits of the instruction there, as a list
with strictly rising addresses. An address that is not listed holds no instruction. -/
abbrev Memory := List (Nat × Word)

/-- The ways one execution of `SMC` can end that are not a refusal (R72). `TrapEL2` is `hypTrap` or
`el2TrapAArch64` (92 D17). -/
inductive SmcOutcome where
  | skipped
  | nop
  | undefined
  | hypTrap
  | el2TrapAArch64
  | smcAArch32
  | smcAArch64 (imm16 : BitVec 16)
deriving DecidableEq, Repr

/-- The outcome of an execution and the address of the `SMC` ("the event raised by the instruction at A", 92 D19). -/
structure Report where
  outcome : SmcOutcome
  addr : Word
deriving DecidableEq, Repr

/-- The state. -/
structure State where
  /-- the configuration, constant over a run (R30). -/
  cfg : SmcConfig
  /-- the program text, constant over a run (R48). -/
  text : Memory
  pe : PE
  /-- the model's own: how many CU_SMD choices have been drawn (R10). -/
  draws : Nat
  /-- the model's own: how the last executed `SMC` ended (92 D19). -/
  last : Option Report
deriving DecidableEq, Repr

/-- Why the machine stops with a fault. -/
inductive Fault where
  /-- The program text has no instruction at the pc: "a run ends ... when the program text has no further
  instruction" (R118). Raised by `step`. Safe: the model stops where the PE goes on. -/
  | endOfText
deriving DecidableEq, Repr

/-- Why the machine gives an execution no meaning. -/
inductive Refusal where
  /-- The instruction has no meaning in the model yet. Raised by `exec` alone; no arm raises it. Safe. -/
  | notModelled (mnemonic : String)
  /-- `refuse(SBZ)`: a "(0)" bit is set and SBZ_policy is `refuse` (R53, R56, R72). Raised by both meanings. Safe. -/
  | shouldBeZero
  /-- `refuse(UNPREDICTABLE_IT)`: T1 in an IT block and not last (R71, R72). Raised by `execSmcT1`. Safe. -/
  | unpredictableIT
  /-- `refuse(NoEL3)`: EL3 is not implemented (R9, R72, R80). Raised by both meanings. Safe. -/
  | noEL3
  /-- The bits at the pc are no `SMC` of the current instruction set (R52, R61, 92 D4). Raised by `step`. Safe. -/
  | notSmc
  /-- The PE executes in AArch64: the run has left the spec (R98, R5). Raised by `step`. Safe. -/
  | leftAArch32
deriving DecidableEq, Repr

/-- What the rules decide for one execution, before anything happens to the state. -/
inductive Verdict where
  /-- the execution ends with this outcome. -/
  | ends (o : SmcOutcome)
  /-- row 5 of R80: `Nop` or `Undefined`, by the choice CU_SMD. -/
  | constrained
  /-- the model gives the execution no meaning. -/
  | refuse (r : Refusal)
deriving DecidableEq, Repr

/-- Status bits at reset: IT, E, IL zero and A, I, F set (PRESUMED, log 5), the flags zero (DESIGN CHOICE, log 5). -/
def Psr.reset : Psr :=
  { nzcv := 0, q := 0, ge := 0, it := 0, e := 0, a := 1, i := 1, f := 1, il := 0 }

/-- A saved status register at reset (DESIGN CHOICE, log 5). -/
def SavedPsr.reset : SavedPsr :=
  { mode := .user, iset := .a32,
    psr := { nzcv := 0, q := 0, ge := 0, it := 0, e := 0, a := 0, i := 0, f := 0, il := 0 } }

/-- SCTLR bits at reset (PRESUMED, log 5). -/
def Sctlr.reset : Sctlr := { te := 0, ee := 0, v := 0 }

/-- The unnamed state at reset (PRESUMED or DESIGN CHOICE field by field, log 5). -/
def Rest.reset : Rest :=
  { psr := Psr.reset, scrNs := 0, scrEa := 0, scrIrq := 0, scrFiq := 0, hcrTge := 0,
    sctlrS := Sctlr.reset, sctlrNs := Sctlr.reset, hsctlr := { te := 0, ee := 0 },
    mvbar := 0, vbarS := 0, vbarNs := 0, hvbar := 0, lrMon := 0, lrUnd := 0, elrHyp := 0,
    spsrMon := SavedPsr.reset, spsrUnd := SavedPsr.reset, spsrHyp := SavedPsr.reset,
    hsr := { ec := 0, il := 0, iss := 0 }, other := 0 }

/-- The PE at reset. The spec gives no reset value (R38): the family's, where it has one (PRESUMED, log 5), and the
answers of the open functions by DESIGN CHOICE (log 6). -/
def PE.reset : PE :=
  { iset := .a32, pc := 0, cp := .always true, inIT := false, lastIT := false,
    el := .el3, es := .aarch32, mode := .supervisor, ss := .secure,
    hcrTsc := 0, scrScd := 0, scrEl3Smd := 0, rest := Rest.reset }

/-- The configuration `State.reset` carries: `HaveEL3` is the spec's premise (92 D10), `SBZ_policy` its fixed value
(92 D3), the open functions open; the rest DESIGN CHOICE (log 4). -/
def SmcConfig.atReset : SmcConfig :=
  { el3AArch32 := true, el2AArch32 := true, haveEL3 := true, haveEL2 := true,
    sbzPolicy := .refuse, condition := .given, entry := .contract }

/-- The machine right after reset: no program, nothing executed. -/
def State.reset : State :=
  { cfg := SmcConfig.atReset, text := [], pe := PE.reset, draws := 0, last := none }

end Sys2Proof.Machine
end

