-- ==== Sys2Proof/Machine/Flags.lean ====
section
/-! DEFINITION. The standard condition table and the ITSTATE functions: the informative passages G1 and G2 of
10_state.md (PRESUMED, log 7), read only when the configuration's condition model is `standard`. `SMC` itself writes no
flag (R33). -/

namespace Sys2Proof.Machine

/-- The condition table after R23 (G1). `cond == '1111'` is no `SMC` encoding and has no row; the answer there is the
family's (log 7). -/
def conditionHolds (cond nzcv : BitVec 4) : Bool :=
  let n := nzcv.getLsbD 3
  let z := nzcv.getLsbD 2
  let c := nzcv.getLsbD 1
  let v := nzcv.getLsbD 0
  match cond.toNat with
  | 0 => z
  | 1 => !z
  | 2 => c
  | 3 => !c
  | 4 => n
  | 5 => !n
  | 6 => v
  | 7 => !v
  | 8 => c && !z
  | 9 => !c || z
  | 10 => n == v
  | 11 => n != v
  | 12 => !z && n == v
  | 13 => z || n != v
  | _ => true

/-- `InITBlock()` is `ITSTATE[3:0] != '0000'` (G2). -/
def itInBlock (it : BitVec 8) : Bool := it.extractLsb' 0 4 != 0b0000#4

/-- `LastInITBlock()` is `ITSTATE[3:0] == '1000'` (G2). -/
def itLastInBlock (it : BitVec 8) : Bool := it.extractLsb' 0 4 == 0b1000#4

/-- The condition of a T32 instruction with no `cond` field: `ITSTATE[7:4]` inside a block, AL outside (G2). -/
def itCondition (it : BitVec 8) : BitVec 4 :=
  if itInBlock it then it.extractLsb' 4 4 else 0b1110#4

/-- ITSTATE after a T32 instruction, executed or skipped (G2). -/
def itAdvance (it : BitVec 8) : BitVec 8 :=
  if it.extractLsb' 0 3 = 0b000#3 then 0#8
  else it.extractLsb' 5 3 ++ (it.extractLsb' 0 5 <<< 1)

end Sys2Proof.Machine
end

