-- ==== Sys2Proof/Machine/Operands.lean ====
section
/-! DEFINITION. The inputs of one execution of `SMC` (10_state.md R20), each read in one place. -/

namespace Sys2Proof.Machine

open Sys2Proof

/-- The condition the standard instantiation tests: `instr[31:28]` in A32, ITSTATE's in T32 (G1, G2). -/
def standardCondition (pe : PE) : Instr → BitVec 4
  | .smcA1 cond _ _ => cond
  | .smcT1 _ _ => itCondition pe.rest.psr.it

/-- The answer of `ConditionPassed()` for one instruction: by `cond` in A1, by nothing of the instruction in T1 (R23). -/
def CondAnswers.forInstr (c : CondAnswers) : Instr → Bool
  | .smcA1 cond _ _ => c.a1.getLsbD cond.toNat
  | .smcT1 _ _ => c.t1

/-- `ConditionPassed : State -> InstrBits -> Bool` (R23, R39, 92 D2). -/
def conditionPassed (s : State) (i : Instr) : Bool :=
  match s.cfg.condition with
  | .given => s.pe.cp.forInstr i
  | .standard => conditionHolds (standardCondition s.pe i) s.pe.rest.psr.nzcv

/-- `InITBlock()` (R24, R39). -/
def inITBlock (s : State) : Bool :=
  match s.cfg.condition with
  | .given => s.pe.inIT
  | .standard => itInBlock s.pe.rest.psr.it

/-- `LastInITBlock()` (R24, R39). -/
def lastInITBlock (s : State) : Bool :=
  match s.cfg.condition with
  | .given => s.pe.lastIT
  | .standard => itLastInBlock s.pe.rest.psr.it

/-- `HCR.TSC` as the operation reads it: `'0'` when EL2 is not implemented (R9, R80, 92 D11). -/
def hcrTscRead (s : State) : BitVec 1 :=
  if s.cfg.haveEL2 then s.pe.hcrTsc else 0b0#1

/-- "a Non-secure EL1 mode" is `el == EL1 && ss == SS_NonSecure` (R26). -/
def inNonSecureEL1 (s : State) : Bool :=
  s.pe.el == .el1 && s.pe.ss == .nonSecure

/-- "User mode" is `el == EL0` (R26, R90). -/
def inUserMode (s : State) : Bool := s.pe.el == .el0

/-- `Zeros(n)` (R12, R81). -/
def zeros (n : Nat) : BitVec n := 0#n

end Sys2Proof.Machine
end

