-- ==== Sys2Proof/Machine/Open.lean ====
section
/-! DEFINITION. The open functions of the rules (R12, R23, R24, R98) as free values: opaque constants of Config, of
which nothing can be proved. An entry function takes the configuration, the PE before the `SMC`, and the address and
length of the `SMC` (92 D1). -/

namespace Sys2Proof.Config

open Sys2Proof.Machine

/-- The answers of the three predicate functions in one state: `ConditionPassed()`, for every instruction it can be
asked about (R23, 92 D2), `InITBlock()` and `LastInITBlock()` (R24). -/
structure Answers where
  cp : CondAnswers
  inIT : Bool
  lastIT : Bool
deriving DecidableEq, Repr, Inhabited

/-- FREE VALUE (log 6). What `ConditionPassed`, `InITBlock`, `LastInITBlock` answer in a PE state that an execution has
produced: "the parameter functions of D2 applied to the next state" (92 D9). -/
opaque answersIn : SmcConfig → PE → Answers

/-- FREE VALUE (log 8). `TakeUndefined`: no contract (R98). -/
opaque takeUndefined : SmcConfig → PE → Word → Nat → PE

/-- FREE VALUE (log 8). `TakeHypTrap`, but for its contract (R98). -/
opaque takeHypTrap : SmcConfig → PE → Word → Nat → PE

/-- FREE VALUE (log 8). `TakeEL2Trap_AArch64`, but for its contract (R98). -/
opaque takeEL2TrapAArch64 : SmcConfig → PE → Word → Nat → PE

/-- FREE VALUE (log 8). `TakeSMCException`, but for its contract (R98). -/
opaque takeSMCException : SmcConfig → PE → Word → Nat → PE

/-- FREE VALUE (log 8). `CallSecureMonitor(imm16)`, but for its contract (R98). -/
opaque callSecureMonitor : BitVec 16 → SmcConfig → PE → Word → Nat → PE

end Sys2Proof.Config
end

