-- ==== Sys2Proof/Machine/Sketch.lean ====
section
/-! DEFINITION. The informative entry bodies G8, G9, G10 of 60_exceptions.md section 4 (PRESUMED, log 9): "one
instantiation, not part of the contract" (R98), "for a model of a PE whose EL3 uses AArch32". They run only when the
configuration's entry model is `sketch`. What a body leaves unsaid about a value it writes is taken from the open entry
function. -/

namespace Sys2Proof.Machine

open Sys2Proof

/-- `saved = CPSR`. -/
def savedPsr (pe : PE) : SavedPsr :=
  { mode := pe.mode, iset := pe.iset, psr := pe.rest.psr }

/-- `CPSR.T <- bit`: the instruction set the handler starts in. -/
def isetOfT (bit : BitVec 1) : InstrSet := if bit = 1#1 then .t32 else .a32

/-- SCTLR of the current Security state (G9); a state other than Secure has the Non-secure copy (log 9). -/
def currentSctlr (pe : PE) : Sctlr :=
  if pe.ss = .secure then pe.rest.sctlrS else pe.rest.sctlrNs

/-- The exception base address of the current Security state (G9); a state other than Secure has the Non-secure VBAR
(log 9). -/
def exceptionBase (pe : PE) : Word :=
  if (currentSctlr pe).v = 1#1 then 0xFFFF0000#32
  else if pe.ss = .secure then pe.rest.vbarS else pe.rest.vbarNs

/-- `SCR.NS <- '0'` when the exception comes from Monitor mode (G8, G9). -/
def scrNsAfter (pe : PE) : BitVec 1 :=
  if pe.mode = .monitor then 0b0#1 else pe.rest.scrNs

/-- G8 (1): ITSTATE advanced first, if the `SMC` was a T32 instruction. -/
def psrAdvanced (pe : PE) : Psr :=
  match pe.iset with
  | .a32 => pe.rest.psr
  | .t32 => { pe.rest.psr with it := itAdvance pe.rest.psr.it }

/-- G8: `AArch32.TakeSMCException()`. -/
def sketchTakeSMCException (pe : PE) (a : Word) (len : Nat) : PE :=
  { pe with
    el := .el3, mode := .monitor, ss := .secure, es := .aarch32
    iset := isetOfT pe.rest.sctlrS.te
    pc := pe.rest.mvbar.extractLsb' 5 27 ++ 0b01000#5
    rest := { pe.rest with
      scrNs := scrNsAfter pe
      spsrMon := { savedPsr pe with psr := psrAdvanced pe }
      lrMon := a + BitVec.ofNat 32 len
      psr := { pe.rest.psr with
        a := 1, i := 1, f := 1, e := pe.rest.sctlrS.ee, il := 0, it := 0 } } }

/-- Entry to Hyp mode at `HVBAR + offset` with the given HSR (G9, G10): the status changes are those of G10. -/
def sketchEnterHyp (pe : PE) (a : Word) (offset : Word) (hsr : Hsr) : PE :=
  { pe with
    el := .el2, mode := .hyp, es := .aarch32
    iset := isetOfT pe.rest.hsctlr.te
    pc := pe.rest.hvbar + offset
    rest := { pe.rest with
      spsrHyp := savedPsr pe
      elrHyp := a
      hsr := hsr
      psr := { pe.rest.psr with
        a := if pe.rest.scrEa = 1#1 then pe.rest.psr.a else 1
        i := if pe.rest.scrIrq = 1#1 then pe.rest.psr.i else 1
        f := if pe.rest.scrFiq = 1#1 then pe.rest.psr.f else 1
        e := pe.rest.hsctlr.ee, il := 0, it := 0 } } }

/-- G10: the Hyp Trap exception for a trapped `SMC`: `EC = 0x13`, `IL = 1`; the ISS fields are named, their values
are not, so they come from the open function. -/
def sketchTakeHypTrap (cfg : SmcConfig) (pe : PE) (a : Word) (len : Nat) : PE :=
  sketchEnterHyp pe a 0x14#32
    { ec := 0x13#6, il := 1, iss := (Config.takeHypTrap cfg pe a len).rest.hsr.iss }

/-- `LR_und`: `A + 4` for A32, `A + 2` for T32 (G9). -/
def lrUndOf (pe : PE) (a : Word) : Word :=
  match pe.iset with
  | .a32 => a + 4#32
  | .t32 => a + 2#32

/-- G9: entry to Undefined mode in the current Security state. The Exception level of that mode is G3's. -/
def sketchEnterUndefined (pe : PE) (a : Word) : PE :=
  { pe with
    el := if pe.ss = .secure then .el3 else .el1
    mode := .undefined, es := .aarch32
    iset := isetOfT (currentSctlr pe).te
    pc := exceptionBase pe + 0x04#32
    rest := { pe.rest with
      scrNs := scrNsAfter pe
      spsrUnd := savedPsr pe
      lrUnd := lrUndOf pe a
      psr := { pe.rest.psr with i := 1, e := (currentSctlr pe).ee, il := 0, it := 0 } } }

/-- G9: the Undefined Instruction exception from AArch32; `HSR.EC = 0x00` where Hyp mode takes it, the other HSR
fields from the open function. DESIGN CHOICE (logs 9, 14): G9 states the route for `HCR.TGE == 1` without asking for
EL2, and 92 D11 settles only `HCR.TSC`; here `HCR.TGE` has no effect where EL2 is not implemented, since there is then no
Hyp mode to enter. -/
def sketchTakeUndefined (cfg : SmcConfig) (pe : PE) (a : Word) (len : Nat) : PE :=
  let hsr : Hsr := { (Config.takeUndefined cfg pe a len).rest.hsr with ec := 0x00#6 }
  if pe.mode = .hyp then sketchEnterHyp pe a 0x04#32 hsr
  else if pe.mode = .user ∧ pe.ss = .nonSecure ∧ cfg.haveEL2 = true ∧ pe.rest.hcrTge = 1#1 then
    sketchEnterHyp pe a 0x14#32 hsr
  else sketchEnterUndefined pe a

/-- The sketches stand for a PE whose EL3 uses AArch32; they run only where the configuration asks for them. -/
def usesSketch (cfg : SmcConfig) : Bool :=
  cfg.entry == .sketch && cfg.el3AArch32

end Sys2Proof.Machine
end

