-- ==== Sys2Proof/Machine/Ops.lean ====
section
/-! DEFINITION. The shared operations: the program text, the fetch, going on at the next instruction, the five
exception entries and the one operation that takes an exception, and the settling of a verdict. No instruction returns
from an exception (R101). -/

namespace Sys2Proof.Machine

open Sys2Proof

/-- The instruction bits at an address, if the text lists one (R41). -/
def Memory.read : Memory → Nat → Option Word
  | [], _ => none
  | (a, w) :: rest, x => if a = x then some w else Memory.read rest x

/-- The text with the instruction bits `w` at address `x`; the addresses stay strictly rising. -/
def Memory.write : Memory → Nat → Word → Memory
  | [], x, v => [(x, v)]
  | (a, w) :: rest, x, v =>
    if x < a then (x, v) :: (a, w) :: rest
    else if x = a then (x, v) :: rest
    else (a, w) :: Memory.write rest x v

/-- Every address from `lo` on, strictly rising, and below the end of the address space. -/
def Memory.wfFrom : Nat → Memory → Bool
  | _, [] => true
  | lo, (a, _) :: rest => decide (lo ≤ a) && decide (a < 2 ^ 32) && Memory.wfFrom (a + 1) rest

/-- The canonical form of the text: addresses strictly rising and inside the address space. (An unlisted address
reads as no instruction, which no entry can equal.) -/
def Memory.wf (m : Memory) : Bool := Memory.wfFrom 0 m

/-- Both encodings are 32 bits long, 4 bytes of program text (R32, R60). -/
def smcLength : Nat := 4

/-- The instruction bits at the pc (R41). -/
def fetch (s : State) : Option Word := Memory.read s.text s.pe.pc.toNat

/-- What the condition inputs become when the PE is in state `pe` after an execution: the open functions' answers in
that state (92 D9), or nothing, where the standard instantiation computes them. -/
def withAnswers (cfg : SmcConfig) (pe : PE) : PE :=
  match cfg.condition with
  | .given =>
    { pe with cp := (Config.answersIn cfg pe).cp, inIT := (Config.answersIn cfg pe).inIT,
              lastIT := (Config.answersIn cfg pe).lastIT }
  | .standard => pe

/-- `rest` after an `SMC` that raises nothing: unchanged (92 D1), but that under the standard instantiation ITSTATE
advances after a T32 instruction (G2). -/
def restAfter (cfg : SmcConfig) (pe : PE) : Rest :=
  match cfg.condition, pe.iset with
  | .standard, .t32 => { pe.rest with psr := { pe.rest.psr with it := itAdvance pe.rest.psr.it } }
  | _, _ => pe.rest

/-- The PE at the instruction that follows in the program text: `pc <- A + 4` (R32, R72, 92 D9). -/
def nextInstruction (cfg : SmcConfig) (pe : PE) : PE :=
  withAnswers cfg { pe with pc := pe.pc + BitVec.ofNat 32 smcLength, rest := restAfter cfg pe }

/-- `TakeUndefined` (R91, R98): the contract fixes nothing. -/
def takeUndefined (cfg : SmcConfig) (pe : PE) (a : Word) (len : Nat) : PE :=
  if usesSketch cfg then withAnswers cfg (sketchTakeUndefined cfg pe a len)
  else Config.takeUndefined cfg pe a len

/-- `TakeHypTrap` (R93, R98): `el = EL2`, mode = Hyp. -/
def takeHypTrap (cfg : SmcConfig) (pe : PE) (a : Word) (len : Nat) : PE :=
  if usesSketch cfg then withAnswers cfg (sketchTakeHypTrap cfg pe a len)
  else { Config.takeHypTrap cfg pe a len with el := .el2, mode := .hyp, es := .aarch32 }

/-- `TakeEL2Trap_AArch64` (R93, R98): taken to EL2, which is not an AArch32 level. -/
def takeEL2TrapAArch64 (cfg : SmcConfig) (pe : PE) (a : Word) (len : Nat) : PE :=
  { Config.takeEL2TrapAArch64 cfg pe a len with el := .el2, es := .aarch64 }

/-- `TakeSMCException` (R94, R98): `el = EL3`, mode = Monitor. -/
def takeSMCException (cfg : SmcConfig) (pe : PE) (a : Word) (len : Nat) : PE :=
  if usesSketch cfg then withAnswers cfg (sketchTakeSMCException pe a len)
  else { Config.takeSMCException cfg pe a len with el := .el3, mode := .monitor, es := .aarch32 }

/-- `CallSecureMonitor(imm16)` (R95, R98): taken to EL3, which is not an AArch32 level. -/
def callSecureMonitor (imm16 : BitVec 16) (cfg : SmcConfig) (pe : PE) (a : Word) (len : Nat) : PE :=
  { Config.callSecureMonitor imm16 cfg pe a len with el := .el3, es := .aarch64 }

/-- The PE after an execution with this outcome (R72): the next instruction, or the entry the outcome raises. -/
def peAfter (o : SmcOutcome) (cfg : SmcConfig) (pe : PE) : PE :=
  match o with
  | .skipped => nextInstruction cfg pe
  | .nop => nextInstruction cfg pe
  | .undefined => takeUndefined cfg pe pe.pc smcLength
  | .hypTrap => takeHypTrap cfg pe pe.pc smcLength
  | .el2TrapAArch64 => takeEL2TrapAArch64 cfg pe pe.pc smcLength
  | .smcAArch32 => takeSMCException cfg pe pe.pc smcLength
  | .smcAArch64 imm16 => callSecureMonitor imm16 cfg pe pe.pc smcLength

/-- The one operation that ends an execution, by going on or by taking an exception (R72, R97): it acts on the state
before the `SMC`, which has written nothing. -/
def conclude (o : SmcOutcome) (s : State) : State :=
  { s with pe := peAfter o s.cfg s.pe, last := some { outcome := o, addr := s.pe.pc } }

/-- What each permitted result of `ConstrainUnpredictable(Unpredictable_SMD)` leads to (R77, R83). -/
def outcomeOfChoice : SmdChoice → SmcOutcome
  | .constraintNop => .nop
  | .constraintUndef => .undefined

/-- `draw c from {NOP, UNDEF}`: the draw is counted, so that the next one is fresh (R10, 92 D5). -/
def countDraw (s : State) : State := { s with draws := s.draws + 1 }

/-- What a verdict does to the machine. -/
def settle (v : Verdict) (s : State) : Host.Outcome State Fault Refusal :=
  match v with
  | .ends o => .next (conclude o s)
  | .constrained => .next (conclude (outcomeOfChoice (Config.smdChoice s.draws)) (countDraw s))
  | .refuse r => .refused r

end Sys2Proof.Machine
end

