-- ==== Sys2Proof/Machine/Smc.lean ====
section
/-! DEFINITION. The meaning of `SMC` (40_smc.md): the shared operation R73 to R80 as a decision, and one meaning for
each encoding (R70, R71). -/

namespace Sys2Proof.Machine

open Sys2Proof

/-- `AArch32.CheckForSMCUndefOrTrap()` as R75 defines it: (a) UNDEFINED in User mode, (b) the `HCR.TSC` trap. -/
def checkForSMCUndefOrTrap (s : State) : Option SmcOutcome :=
  if inUserMode s then some .undefined
  else if inNonSecureEL1 s && hcrTscRead s == 1#1 then
    some (if s.cfg.el2AArch32 then .hypTrap else .el2TrapAArch64)
  else none

/-- The disable bit of the EL3 in use and the exception itself (R76 to R79; the nesting is R73's). -/
def disableOrTake (s : State) : Verdict :=
  if s.cfg.el3AArch32 = false then
    if s.pe.scrEl3Smd = 1#1 then .ends .undefined
    else .ends (.smcAArch64 (zeros 16))
  else
    if s.pe.scrScd = 1#1 then
      if s.pe.ss = .secure then .constrained else .ends .undefined
    else .ends .smcAArch32

/-- `SMC_common`, the decision table (R80). -/
def smcCommon (s : State) : Verdict :=
  if s.cfg.haveEL3 = false then .refuse .noEL3
  else
    match checkForSMCUndefOrTrap s with
    | some o => .ends o
    | none => disableOrTake s

/-- `if ConditionPassed() then ...` with no `else` (R74). -/
def underCondition (s : State) (i : Instr) : Verdict :=
  if conditionPassed s i then smcCommon s else .ends .skipped

/-- The should-be-zero test, before anything else (R70, R71), by SBZ_policy (R11, 92 D3). -/
def sbzTest (s : State) (sbz : BitVec 12) (rest : Verdict) : Verdict :=
  if sbz = 0#12 then rest
  else
    match s.cfg.sbzPolicy with
    | .refuse => .refuse .shouldBeZero
    | .ignore => rest
    | .undefined => .ends .undefined

/-- The T1 decode fragment, whatever the condition is (R59, R71, 90_conflicts.md C8). -/
def itTest (s : State) (rest : Verdict) : Verdict :=
  if inITBlock s && !lastInITBlock s then .refuse .unpredictableIT else rest

/-- What the rules decide for one execution of an `SMC` (R70, R71). -/
def smcVerdict (s : State) : Instr → Verdict
  | .smcA1 cond sbz imm4 => sbzTest s sbz (underCondition s (.smcA1 cond sbz imm4))
  | .smcT1 imm4 sbz => sbzTest s sbz (itTest s (underCondition s (.smcT1 imm4 sbz)))

/-- `SMC` A1 (R70). -/
def execSmcA1 (cond : BitVec 4) (sbz : BitVec 12) (imm4 : BitVec 4) (s : State) :
    Host.Outcome State Fault Refusal :=
  settle (smcVerdict s (.smcA1 cond sbz imm4)) s

/-- `SMC` T1 (R71). -/
def execSmcT1 (imm4 : BitVec 4) (sbz : BitVec 12) (s : State) :
    Host.Outcome State Fault Refusal :=
  settle (smcVerdict s (.smcT1 imm4 sbz)) s

end Sys2Proof.Machine
end

