-- ==== Sys2Proof/Machine/Dispatch.lean ====
section
/-! DEFINITION. One arm for each constructor of Instr. -/

namespace Sys2Proof.Machine

open Sys2Proof

def exec (i : Instr) (s : State) : Host.Outcome State Fault Refusal :=
  match i with
  | .smcA1 cond sbz imm4 => Sys2Proof.Machine.execSmcA1 cond sbz imm4 s
  | .smcT1 imm4 sbz => Sys2Proof.Machine.execSmcT1 imm4 sbz s

end Sys2Proof.Machine
end

