-- ==== Sys2Proof/Machine/Step.lean ====
section
/-! DEFINITION. One step of the machine: fetch at the pc, decode in the current instruction set, execute. -/

namespace Sys2Proof.Machine

open Sys2Proof

/-- One step. A PE that executes in AArch64 is outside the spec (R98); a text with no instruction at the pc ends the
run (R118); bits that are no `SMC` are refused (R52, R61). -/
def step (s : State) : Host.Outcome State Fault Refusal :=
  match s.pe.es with
  | .aarch64 => .refused .leftAArch32
  | .aarch32 =>
    match fetch s with
    | none => .fault .endOfText
    | some w =>
      match decode s.pe.iset w with
      | .reject _ => .refused .notSmc
      | .instr i => exec i s

/-- The instruction bits `w` placed where the next step fetches, with the instruction set and the Execution state
in which they are an instruction (R21, R41, log 21). -/
def State.withFetchWord (s : State) (nbits w : Nat) : State :=
  { s with
    text := Memory.write s.text s.pe.pc.toNat (tableBits nbits w)
    pe := { s.pe with
      iset := (tableIsa (tableBits nbits w)).getD s.pe.iset
      es := .aarch32 } }

end Sys2Proof.Machine
end

