-- ==== Sys2Proof/Machine/Assembly.lean ====
section
/-! DEFINITION. The assembler syntax `SMC{<c>}{<q>} {#}<imm4>` (30_encoding.md R58, R62, R63), on parsed statements.
What `<c>` and `<q>` are is not in the source: the mnemonics and qualifiers are the informative passages G1 and G7
(PRESUMED, log 25); the canonical disassembly is 92 D16's. -/

namespace Sys2Proof.Machine

open Sys2Proof

/-- The condition mnemonics of the table after R23, HS and LO among them (G1). -/
inductive CondName where
  | eq | ne | cs | hs | cc | lo | mi | pl | vs | vc | hi | ls | ge | lt | gt | le | al
deriving DecidableEq, Repr

/-- `<q>`: `.N` or `.W` (G7). -/
inductive Qualifier where
  | narrow | wide
deriving DecidableEq, Repr

/-- One statement of the template: `<c>` and `<q>` may be left out, the `#` too, the number may not (R62). -/
structure AsmSmc where
  cond : Option CondName
  qual : Option Qualifier
  hash : Bool
  imm : Int
deriving DecidableEq, Repr

/-- Why an assembler rejects a statement. -/
inductive AsmError where
  /-- the number is outside 0 to 15 (R58). -/
  | immOutOfRange
  /-- `.N`: there is no 16-bit encoding of `SMC` (R60, G7). -/
  | noNarrowEncoding
  /-- T32: `<c>` is not the condition of this position (G7). -/
  | conditionMismatch
deriving DecidableEq, Repr

/-- The answer of the assembler. -/
inductive Assembled where
  | instr (i : Instr)
  | error (e : AsmError)
deriving DecidableEq, Repr

/-- The `cond` value of a mnemonic (G1). -/
def condBits : CondName → BitVec 4
  | .eq => 0x0#4
  | .ne => 0x1#4
  | .cs => 0x2#4
  | .hs => 0x2#4
  | .cc => 0x3#4
  | .lo => 0x3#4
  | .mi => 0x4#4
  | .pl => 0x5#4
  | .vs => 0x6#4
  | .vc => 0x7#4
  | .hi => 0x8#4
  | .ls => 0x9#4
  | .ge => 0xA#4
  | .lt => 0xB#4
  | .gt => 0xC#4
  | .le => 0xD#4
  | .al => 0xE#4

/-- `<c>` left out means AL (G7). -/
def condOrAl : Option CondName → BitVec 4
  | none => 0xE#4
  | some c => condBits c

/-- The canonical `<c>` of a `cond` value: empty for `'1110'` (92 D16), and for `'1111'`, which no `SMC` has. -/
def canonicalCond (bits : BitVec 4) : Option CondName :=
  match bits.toNat with
  | 0 => some .eq
  | 1 => some .ne
  | 2 => some .cs
  | 3 => some .cc
  | 4 => some .mi
  | 5 => some .pl
  | 6 => some .vs
  | 7 => some .vc
  | 8 => some .hi
  | 9 => some .ls
  | 10 => some .ge
  | 11 => some .lt
  | 12 => some .gt
  | 13 => some .le
  | _ => none

/-- The assembler: A1 for A32 code, T1 for T32 code (R62), the "(0)" bits zero (R53, R113). `position` is the condition
that the enclosing IT block gives this place in T32 code, AL outside a block (G7); A32 does not read it. -/
def assemble (isa : InstrSet) (position : BitVec 4) (a : AsmSmc) : Assembled :=
  if a.qual = some .narrow then .error .noNarrowEncoding
  else if a.imm < 0 ∨ 15 < a.imm then .error .immOutOfRange
  else
    match isa with
    | .a32 => .instr (.smcA1 (condOrAl a.cond) 0#12 (BitVec.ofInt 4 a.imm))
    | .t32 =>
      if condOrAl a.cond = position then .instr (.smcT1 (BitVec.ofInt 4 a.imm) 0#12)
      else .error .conditionMismatch

/-- The condition a disassembler prints: `cond` in A1; in T1, which has no such field (R57), that of the position. -/
def printedCond (position : BitVec 4) : Instr → Option CondName
  | .smcA1 cond _ _ => canonicalCond cond
  | .smcT1 _ _ => canonicalCond position

/-- The canonical disassembly `SMC<c> #<imm4>` (R62, 92 D16). -/
def disassemble (position : BitVec 4) (i : Instr) : AsmSmc :=
  { cond := printedCond position i, qual := none, hash := true, imm := i.imm4.toNat }

/-- The two letters of a condition mnemonic (G1). -/
def condLetters : CondName → List Char
  | .eq => ['E', 'Q']
  | .ne => ['N', 'E']
  | .cs => ['C', 'S']
  | .hs => ['H', 'S']
  | .cc => ['C', 'C']
  | .lo => ['L', 'O']
  | .mi => ['M', 'I']
  | .pl => ['P', 'L']
  | .vs => ['V', 'S']
  | .vc => ['V', 'C']
  | .hi => ['H', 'I']
  | .ls => ['L', 'S']
  | .ge => ['G', 'E']
  | .lt => ['L', 'T']
  | .gt => ['G', 'T']
  | .le => ['L', 'E']
  | .al => ['A', 'L']

/-- The letters of a qualifier (G7). -/
def qualLetters : Qualifier → List Char
  | .narrow => ['.', 'N']
  | .wide => ['.', 'W']

/-- A number in decimal. -/
def decimal : Int → List Char
  | .ofNat n => Nat.toDigits 10 n
  | .negSucc n => '-' :: Nat.toDigits 10 (n + 1)

/-- The text of a statement, piece by piece as the template has it (R62). -/
def asmText (a : AsmSmc) : List Char :=
  ['S', 'M', 'C'] ++ (a.cond.map condLetters).getD [] ++ (a.qual.map qualLetters).getD []
    ++ [' '] ++ (if a.hash then ['#'] else []) ++ decimal a.imm

end Sys2Proof.Machine
end

