-- ==== Sys2Proof/Safety.lean ====
section
/-! DEFINITION. The terms the statements use: when the wrapper tests let the operation run, where a reported outcome
must have led, the invariant of the machine, and a run in the sense of R118. -/

namespace Sys2Proof.Machine

open Sys2Proof

/-- The T1 decode check lets the instruction pass; A1 has no such check (R71, R112). -/
def itAllows (s : State) : Instr → Bool
  | .smcA1 _ _ _ => true
  | .smcT1 _ _ => !(inITBlock s && !lastInITBlock s)

/-- The tests that stand before the condition (R70, R71) let the instruction pass: every "(0)" bit zero, and for T1
the IT-block position allowed. -/
def admitted (i : Instr) (s : State) : Bool :=
  i.sbz == 0#12 && itAllows s i

/-- The operation R80 is reached: the instruction is admitted, its condition passes, and EL3 is implemented. -/
def operationRuns (i : Instr) (s : State) : Bool :=
  admitted i s && conditionPassed s i && s.cfg.haveEL3

/-- Row 2 of R80 holds: Non-secure EL1 with `HCR.TSC` reading 1. -/
def trapApplies (s : State) : Bool :=
  inNonSecureEL1 s && hcrTscRead s == 1#1

/-- The instruction is executed at EL1 or higher and is not trapped to EL2: rows 3 to 7 of R80 decide. -/
def reachesDisableTest (i : Instr) (s : State) : Bool :=
  operationRuns i s && !inUserMode s && !trapApplies s

/-- An outcome after which execution continues at the next instruction (R72, 92 D9). -/
def SmcOutcome.continues : SmcOutcome → Bool
  | .skipped => true
  | .nop => true
  | _ => false

/-- What the rules promise of the state and configuration after each outcome: the contract column of R98, the
conditions that every path to the outcome tests and that cannot have changed, and `Zeros(16)` (R81). -/
def SmcOutcome.promises (o : SmcOutcome) (s : State) : Prop :=
  match o with
  | .skipped => True
  | .nop => s.cfg.el3AArch32 = true ∧ s.cfg.haveEL3 = true ∧ s.pe.scrScd = 1#1 ∧ s.pe.ss = .secure ∧
      s.pe.el ≠ .el0
  | .undefined => s.cfg.haveEL3 = true ∨ s.cfg.sbzPolicy = .undefined
  | .hypTrap => s.cfg.haveEL3 = true ∧ s.cfg.haveEL2 = true ∧ s.cfg.el2AArch32 = true ∧
      s.pe.el = .el2 ∧ s.pe.mode = .hyp ∧ s.pe.es = .aarch32
  | .el2TrapAArch64 => s.cfg.haveEL3 = true ∧ s.cfg.haveEL2 = true ∧ s.cfg.el2AArch32 = false ∧
      s.pe.el = .el2 ∧ s.pe.es = .aarch64
  | .smcAArch32 => s.cfg.haveEL3 = true ∧ s.cfg.el3AArch32 = true ∧
      s.pe.el = .el3 ∧ s.pe.mode = .monitor ∧ s.pe.es = .aarch32
  | .smcAArch64 imm16 => s.cfg.haveEL3 = true ∧ s.cfg.el3AArch32 = false ∧ imm16 = 0#16 ∧
      s.pe.el = .el3 ∧ s.pe.es = .aarch64

/-- The invariant: the program text is canonical, and the state is one the reported outcome can have led to. -/
def State.Inv (s : State) : Prop :=
  Memory.wf s.text = true ∧ ∀ r, s.last = some r → r.outcome.promises s

/-- Everything the source names, but the program counter and the condition inputs, is as before: the configuration,
the program text, the instruction set, Exception level, Execution state, mode, Security state and the three control
bits (R20, R85). -/
structure NamedUnchanged (s t : State) : Prop where
  cfg : t.cfg = s.cfg
  text : t.text = s.text
  iset : t.pe.iset = s.pe.iset
  el : t.pe.el = s.pe.el
  es : t.pe.es = s.pe.es
  mode : t.pe.mode = s.pe.mode
  ss : t.pe.ss = s.pe.ss
  hcrTsc : t.pe.hcrTsc = s.pe.hcrTsc
  scrScd : t.pe.scrScd = s.pe.scrScd
  scrEl3Smd : t.pe.scrEl3Smd = s.pe.scrEl3Smd

/-- The component `rest` is as before (92 D1), but for ITSTATE after a T32 instruction under the standard condition
model (G2). -/
structure RestUnchanged (s t : State) : Prop where
  butIt : t.pe.rest = { s.pe.rest with psr := { s.pe.rest.psr with it := t.pe.rest.psr.it } }
  it : t.pe.rest.psr.it =
    if s.cfg.condition = .standard ∧ s.pe.iset = .t32 then itAdvance s.pe.rest.psr.it
    else s.pe.rest.psr.it

/-- The three control bits (R27, R28, R29) are as before. -/
structure ControlBitsUnchanged (s t : State) : Prop where
  hcrTsc : t.pe.hcrTsc = s.pe.hcrTsc
  scrScd : t.pe.scrScd = s.pe.scrScd
  scrEl3Smd : t.pe.scrEl3Smd = s.pe.scrEl3Smd

/-- The `SMC` at the pc of `s` raised the exception `o` and nothing else: the PE is what the entry function of `o`
makes of the PE before the `SMC` (R97, R98). That the configuration and the text outlive the entry is the spec's own
choice (92 D8, D15; logs 1, 3, 8). -/
structure Raises (s : State) (o : SmcOutcome) (pe : PE) (t : State) : Prop where
  pe : t.pe = pe
  last : t.last = some { outcome := o, addr := s.pe.pc }
  cfg : t.cfg = s.cfg
  text : t.text = s.text

/-- How a run in the sense of R118 ends. -/
inductive RunEnd where
  /-- at the first outcome other than Skipped and Nop: the raised event and its address (92 D19). -/
  | raised (r : Report) (s : State)
  /-- where the program text has no instruction. -/
  | textEnded (s : State)
  /-- an execution without a meaning. -/
  | refused (r : Refusal) (s : State)
  /-- not ended within the given number of executions. -/
  | running (s : State)
deriving DecidableEq, Repr

/-- A run of at most `n` executions (R118). -/
def runOf : Nat → State → RunEnd
  | 0, s => .running s
  | n + 1, s =>
    match step s with
    | .fault _ => .textEnded s
    | .refused r => .refused r s
    | .next t =>
      match t.last with
      | none => runOf n t
      | some r => if r.outcome.continues then runOf n t else .raised r t

end Sys2Proof.Machine
end

