-- ==== Sys2Proof/Certificates/Slice0/Obligations.lean ====
section
/-! DEFINITION. The statements for the provers. Each says which rule of spec/ it formalises, or which decision of the
spec and log entry it rests on. `∃ t, exec i s = .next t ∧ …` says that the instruction completes. -/

open Sys2Proof Sys2Proof.Machine

/-! ## Encoding -/

/-- R50: the A1 diagram. The decoder reads a word as A1 with fields `c`, `z`, `n` exactly when the word is the boxes
of the diagram in order, with `cond` any value but 1111. -/
def Obligations.A1DiagramIsWhatTheDecoderReads : Prop :=
  ∀ (w : Word) (c : BitVec 4) (z : BitVec 12) (n : BitVec 4),
    decode .a32 w = .instr (.smcA1 c z n) ↔
      (w = c ++ 0b00010#5 ++ 0b11#2 ++ 0b0#1 ++ z ++ 0b0111#4 ++ n ∧ c ≠ 0b1111#4)

/-- R54: the T1 diagram. The decoder reads two halfwords as T1 with fields `n`, `z` exactly when they are the boxes
of the diagram in order; there is no `cond` field. -/
def Obligations.T1DiagramIsWhatTheDecoderReads : Prop :=
  ∀ (hw1 hw2 : Halfword) (n : BitVec 4) (z : BitVec 12),
    decode .t32 (ofHalfwords hw1 hw2) = .instr (.smcT1 n z) ↔
      (hw1 = 0b11110111111#11 ++ 0b1#1 ++ n ∧ hw2 = 0b10#2 ++ 0b0#1 ++ 0b0#1 ++ z)

/-- R51 (derived there from R50): the A1 match and mask, the twelve mask bits, the should-be-zero bits outside the
match, the fields, and the assembly of a word. -/
def Obligations.A1MatchAndMask : Prop :=
  (∀ w : Word, (∃ i, decode .a32 w = .instr i) ↔
      (w &&& 0x0FF000F0#32 = 0x01600070#32 ∧ w.extractLsb 31 28 ≠ 0b1111#4)) ∧
  (∀ (w : Word) (i : Instr), decode .a32 w = .instr i →
      i = .smcA1 (w.extractLsb 31 28) (w.extractLsb 19 8) (w.extractLsb 3 0)) ∧
  (∀ j : Nat, (0x0FF000F0#32).getLsbD j = true ↔ (20 ≤ j ∧ j ≤ 27) ∨ (4 ≤ j ∧ j ≤ 7)) ∧
  (∀ w v : Word, w &&& 0xFFF000FF#32 = v &&& 0xFFF000FF#32 →
      ((∃ i, decode .a32 w = .instr i) ↔ (∃ i, decode .a32 v = .instr i))) ∧
  (∀ c n : BitVec 4,
      encode (.smcA1 c 0#12 n) =
        (c.setWidth 32 <<< 28) ||| 0x01600070#32 ||| n.setWidth 32)

/-- R55 (derived there from R54): the T1 match and mask over the pair and over each halfword, the fields, and the
assembly of the two halfwords. -/
def Obligations.T1MatchAndMask : Prop :=
  (∀ hw1 hw2 : Halfword, (∃ i, decode .t32 (ofHalfwords hw1 hw2) = .instr i) ↔
      ofHalfwords hw1 hw2 &&& 0xFFF0F000#32 = 0xF7F08000#32) ∧
  (∀ hw1 hw2 : Halfword, (∃ i, decode .t32 (ofHalfwords hw1 hw2) = .instr i) ↔
      (hw1 &&& 0xFFF0#16 = 0xF7F0#16 ∧ hw2 &&& 0xF000#16 = 0x8000#16)) ∧
  (∀ (hw1 hw2 : Halfword) (i : Instr), decode .t32 (ofHalfwords hw1 hw2) = .instr i →
      i = .smcT1 (hw1.extractLsb 3 0) (hw2.extractLsb 11 0)) ∧
  (∀ n : BitVec 4,
      encode (.smcT1 n 0#12) = ofHalfwords (0xF7F0#16 ||| n.setWidth 16) 0x8000#16)

/-- Decode and encode agree: every well-formed instruction, at every value of every field, is read back from its
encoding (R50, R54; 92 D16). -/
def Obligations.DecodeOfEncodeIsTheInstruction : Prop :=
  ∀ i : Instr, i.wf = true → decode i.isa (encode i) = .instr i

/-- The other direction: what the decoder reads in an instruction set is a well-formed instruction of that set, and
encodes to the same word, should-be-zero bits included (R21; 92 D16). -/
def Obligations.EncodeOfDecodeIsTheWord : Prop :=
  ∀ (isa : InstrSet) (w : Word) (i : Instr), decode isa w = .instr i →
    i.wf = true ∧ i.isa = isa ∧ encode i = w

/-- No 32 bits are an `SMC` in both instruction sets (R51, R55). -/
def Obligations.NoWordIsBothEncodings : Prop :=
  ∀ (w : Word) (i : Instr), decode .a32 w = .instr i → ∀ j, decode .t32 w ≠ .instr j

/-- Words written out bit by bit from the diagrams decode to the instruction they stand for (vectors A02, A03, A08,
T01, T03, T06), and neighbours with one fixed bit changed do not decode (A06, A10, T07, T09). -/
def Obligations.WrittenOutWordsDecode : Prop :=
  decode .a32 0b11100001011000000000000001111111#32 = .instr (.smcA1 14#4 0#12 15#4) ∧
  decode .a32 0b00000001011000000000000001110001#32 = .instr (.smcA1 0#4 0#12 1#4) ∧
  decode .a32 0b11100001011010000000000001110000#32 = .instr (.smcA1 14#4 0x800#12 0#4) ∧
  decode .t32 0b11110111111100001000000000000000#32 = .instr (.smcT1 0#4 0#12) ∧
  decode .t32 0b11110111111110011000000000000000#32 = .instr (.smcT1 9#4 0#12) ∧
  decode .t32 0b11110111111100001000111111111111#32 = .instr (.smcT1 0#4 0xFFF#12) ∧
  decode .a32 0b11110001011000000000000001110000#32 = .reject .condIs1111 ∧
  decode .a32 0b11100001011100000000000001110000#32 = .reject .notA1 ∧
  decode .t32 0b11110111111000001000000000000000#32 = .reject .notT1 ∧
  decode .t32 0b11110111111100001001000000000000#32 = .reject .notT1

/-! ## The step -/

/-- A step runs the decoded instruction: in AArch32, when the bits at the pc decode to `i`, the step is `exec i`. -/
def Obligations.StepRunsTheDecodedInstruction : Prop :=
  ∀ (s : State) (w : Word) (i : Instr), s.pe.es = .aarch32 →
    Memory.read s.text s.pe.pc.toNat = some w → decode s.pe.iset w = .instr i →
    step s = exec i s

/-- When a step stops: no instruction at the pc ends the run (R118), bits that are no `SMC` of the current instruction
set are refused, the A1 pattern with `cond == '1111'` among them (R52, R61; the spec's own choice D4, log 16), and AArch64
is outside the spec (R98). The forms of the stops are the model's (logs 16 to 18). -/
def Obligations.StepStopsOutsideTheSpec : Prop :=
  (∀ s : State, s.pe.es = .aarch64 → step s = .refused .leftAArch32) ∧
  (∀ s : State, s.pe.es = .aarch32 → Memory.read s.text s.pe.pc.toNat = none →
    step s = .fault .endOfText) ∧
  (∀ (s : State) (w : Word), s.pe.es = .aarch32 → s.pe.iset = .a32 →
    Memory.read s.text s.pe.pc.toNat = some w →
    (w &&& 0x0FF000F0#32 ≠ 0x01600070#32 ∨ w.extractLsb 31 28 = 0b1111#4) →
    step s = .refused .notSmc) ∧
  (∀ (s : State) (w : Word), s.pe.es = .aarch32 → s.pe.iset = .t32 →
    Memory.read s.text s.pe.pc.toNat = some w → w &&& 0xFFF0F000#32 ≠ 0xF7F08000#32 →
    step s = .refused .notSmc)

/-- Placing a row's word at the pc makes the next step run exactly that instruction, and leaves every other address
of the text as it was (the model's load, log 21). -/
def Obligations.PlacedWordIsRunNext : Prop :=
  ∀ (s : State) (nbits w : Nat) (i : Instr), decodeTableWord nbits w = some i →
    step (s.withFetchWord nbits w) = exec i (s.withFetchWord nbits w) ∧
    (∀ a : Nat, a ≠ s.pe.pc.toNat →
      Memory.read (s.withFetchWord nbits w).text a = Memory.read s.text a) ∧
    (s.withFetchWord nbits w).pe.pc = s.pe.pc ∧ (s.withFetchWord nbits w).cfg = s.cfg

/-! ## The operation -/

/-- R74: an admitted `SMC` of either encoding whose condition fails completes as Skipped, in every mode and whatever
the control bits are: no exception, no draw, and nothing the source names is written. -/
def Obligations.FailedConditionDoesNothing : Prop :=
  ∀ (i : Instr) (s : State), admitted i s = true → conditionPassed s i = false →
    ∃ t, exec i s = .next t ∧ t.last = some { outcome := .skipped, addr := s.pe.pc } ∧
      NamedUnchanged s t ∧ t.draws = s.draws

/-- The spec's own choices D9 (log 28) and D1 (log 27): after Skipped or Nop of either encoding the pc is A + 4, nothing
else the source names has changed, and `rest` (flags, general and special registers) is as before. The model's, not the
spec's: that A + 4 wraps at the top of a 32-bit address space (PRESUMED, log 2), and that ITSTATE advances in T32 under
the standard condition model (G2, PRESUMED, log 7). -/
def Obligations.SkippedAndNopGoOnAtTheNextInstruction : Prop :=
  ∀ (i : Instr) (s t : State) (r : Report), exec i s = .next t → t.last = some r →
    (r.outcome = .skipped ∨ r.outcome = .nop) →
    t.pe.pc = s.pe.pc + 4#32 ∧ NamedUnchanged s t ∧ RestUnchanged s t

/-- R75 (a): at EL0, User mode, an `SMC` of either encoding that is executed takes the Undefined Instruction
exception, whatever the Security state, the three control bits and the level that uses AArch32. That the configuration
and the text outlive the entry is no part of R75 but the spec's own choice D8, D15 (logs 1, 3, 8). -/
def Obligations.UserModeIsUndefined : Prop :=
  ∀ (i : Instr) (s : State), operationRuns i s = true → s.pe.el = .el0 →
    ∃ t, exec i s = .next t ∧ t.draws = s.draws ∧
      Raises s .undefined (takeUndefined s.cfg s.pe s.pe.pc 4) t

/-- R93: at Non-secure EL1 with `HCR.TSC` 1 and EL2 implemented, an `SMC` of either encoding that is executed is
trapped to EL2, regardless of `SCR.SCD` and `SCR_EL3.SMD`: a Hyp Trap exception to Hyp mode when EL2 uses AArch32,
else an exception that is taken to EL2 (the spec's own choice D17 hands it to an open function, log 8). Nowhere else
is it trapped, and never when the condition fails. That the configuration and the text outlive the trap entry is no
part of R93 but the spec's own choice D8, D15 (logs 1, 3, 8). -/
def Obligations.NonSecureEL1IsTrappedToEL2 : Prop :=
  (∀ (i : Instr) (s : State), operationRuns i s = true → s.cfg.haveEL2 = true →
    s.pe.el = .el1 → s.pe.ss = .nonSecure → s.pe.hcrTsc = 1#1 →
    ∃ t, exec i s = .next t ∧ t.pe.el = .el2 ∧ t.draws = s.draws ∧
      (s.cfg.el2AArch32 = true → t.pe.mode = .hyp ∧
        Raises s .hypTrap (takeHypTrap s.cfg s.pe s.pe.pc 4) t) ∧
      (s.cfg.el2AArch32 = false →
        Raises s .el2TrapAArch64 (takeEL2TrapAArch64 s.cfg s.pe s.pe.pc 4) t)) ∧
  (∀ (i : Instr) (s t : State) (r : Report), exec i s = .next t → t.last = some r →
    (r.outcome = .hypTrap ∨ r.outcome = .el2TrapAArch64) →
    conditionPassed s i = true ∧ s.pe.el = .el1 ∧ s.pe.ss = .nonSecure ∧ s.pe.hcrTsc = 1#1)

/-- R76: with EL3 using AArch64 and `SCR_EL3.SMD` 1, an `SMC` of either encoding that is executed at EL1 or higher and
is not trapped is UNDEFINED, in every Security state; `SCR.SCD` is not read on this path. That the configuration and the
text outlive the entry is no part of R76 but the spec's own choice D8, D15 (logs 1, 3, 8). -/
def Obligations.SmdMakesItUndefined : Prop :=
  (∀ (i : Instr) (s : State), reachesDisableTest i s = true → s.cfg.el3AArch32 = false →
    s.pe.scrEl3Smd = 1#1 →
    ∃ t, exec i s = .next t ∧ t.draws = s.draws ∧
      Raises s .undefined (takeUndefined s.cfg s.pe s.pe.pc 4) t) ∧
  (∀ (i : Instr) (s : State) (b : BitVec 1), s.cfg.el3AArch32 = false →
    smcVerdict { s with pe := { s.pe with scrScd := b } } i = smcVerdict s i)

/-- R77: with EL3 using AArch32, `SCR.SCD` 1 and Secure state, an `SMC` of either encoding that is executed at EL1 or
higher completes by a fresh draw from {NOP, UNDEF}: NOP ends it with no effect, UNDEF takes the Undefined Instruction
exception, and there is no third behaviour. The draw is an uninterpreted constant, so neither result is excluded (the
spec's own choice D5, log 10). That the configuration and the text outlive the entry is no part of R77 but the spec's
own choice D8, D15 (logs 1, 3, 8). -/
def Obligations.SecureScdIsNopOrUndefined : Prop :=
  ∀ (i : Instr) (s : State), operationRuns i s = true → s.pe.el ≠ .el0 →
    s.cfg.el3AArch32 = true → s.pe.scrScd = 1#1 → s.pe.ss = .secure →
    ∃ t, exec i s = .next t ∧ t.draws = s.draws + 1 ∧
      (Config.smdChoice s.draws = .constraintNop →
        t.last = some { outcome := .nop, addr := s.pe.pc } ∧ NamedUnchanged s t) ∧
      (Config.smdChoice s.draws = .constraintUndef →
        Raises s .undefined (takeUndefined s.cfg s.pe s.pe.pc 4) t)

/-- R78: with EL3 using AArch32, `SCR.SCD` 1 and a state other than Secure, an `SMC` of either encoding that is executed
at EL1 or higher and is not trapped takes the Undefined Instruction exception, Hyp mode with either value of `HCR.TSC`
included. That the configuration and the text outlive the entry is the spec's own choice D8, D15 (logs 1, 3, 8). -/
def Obligations.NonSecureScdIsUndefined : Prop :=
  ∀ (i : Instr) (s : State), reachesDisableTest i s = true → s.cfg.el3AArch32 = true →
    s.pe.scrScd = 1#1 → s.pe.ss ≠ .secure →
    ∃ t, exec i s = .next t ∧ t.draws = s.draws ∧
      Raises s .undefined (takeUndefined s.cfg s.pe s.pe.pc 4) t

/-- R94: with EL3 using AArch32 and `SCR.SCD` 0, an `SMC` of either encoding that is executed at EL1, EL2 or EL3 (in
Monitor mode itself too) and is not trapped completes by taking the Secure Monitor Call exception: the Exception level
becomes EL3 and the mode Monitor. R94 says so of either Security state; that Root and Realm do the same is the spec's own
choice D20 (log 22), and that the configuration and the text outlive the entry is D8, D15 (logs 1, 3, 8). -/
def Obligations.SecureMonitorCallIsTakenToMonitorMode : Prop :=
  ∀ (i : Instr) (s : State), reachesDisableTest i s = true → s.cfg.el3AArch32 = true →
    s.pe.scrScd = 0#1 →
    ∃ t, exec i s = .next t ∧ t.pe.el = .el3 ∧ t.pe.mode = .monitor ∧ t.draws = s.draws ∧
      Raises s .smcAArch32 (takeSMCException s.cfg s.pe s.pe.pc 4) t

/-- R95: with EL3 using AArch64 and `SCR_EL3.SMD` 0, an `SMC` of either encoding that is executed at EL1 or higher and
is not trapped completes by an exception taken to EL3, and the immediate the monitor is called with is sixteen zero
bits, whatever `imm4` was. That no further step has a meaning is the spec's choice D19 (log 17). That the
configuration and the text outlive the call is no part of R95 but the spec's own choice D8, D15 (logs 1, 3, 8). -/
def Obligations.SecureMonitorIsCalledWithZeros : Prop :=
  ∀ (i : Instr) (s : State), reachesDisableTest i s = true → s.cfg.el3AArch32 = false →
    s.pe.scrEl3Smd = 0#1 →
    ∃ t, exec i s = .next t ∧ t.pe.el = .el3 ∧ t.draws = s.draws ∧
      Raises s (.smcAArch64 0#16) (callSecureMonitor 0#16 s.cfg s.pe s.pe.pc 4) t ∧
      step t = .refused .leftAArch32

/-- R81: the immediate plays no part. Two `SMC` of one encoding that differ only in `imm4` do the same from the same
state, and the value a Secure Monitor is called with is 0x0000. -/
def Obligations.ImmediatePlaysNoPart : Prop :=
  (∀ (i : Instr) (n : BitVec 4) (s : State), exec (i.withImm4 n) s = exec i s) ∧
  (∀ (i : Instr) (s t : State) (a : Word) (imm16 : BitVec 16), exec i s = .next t →
    t.last = some { outcome := .smcAArch64 imm16, addr := a } → imm16 = 0#16)

/-- R91: among admitted executions the Undefined Instruction exception is raised in exactly the four situations, all
with the condition passed, and it is handed to the open function `TakeUndefined`. (EL3 implemented is the spec's
premise D10.) -/
def Obligations.UndefinedInExactlyFourSituations : Prop :=
  ∀ (i : Instr) (s t : State) (r : Report), admitted i s = true → exec i s = .next t →
    t.last = some r →
    (r.outcome = .undefined ↔
      conditionPassed s i = true ∧
        (s.pe.el = .el0 ∨
         (trapApplies s = false ∧
           ((s.cfg.el3AArch32 = false ∧ s.pe.scrEl3Smd = 1#1) ∨
            (s.cfg.el3AArch32 = true ∧ s.pe.scrScd = 1#1 ∧ s.pe.ss ≠ .secure) ∨
            (s.cfg.el3AArch32 = true ∧ s.pe.scrScd = 1#1 ∧ s.pe.ss = .secure ∧
              Config.smdChoice s.draws = .constraintUndef))))) ∧
    (r.outcome = .undefined → t.pe = takeUndefined s.cfg s.pe s.pe.pc 4)

/-- R80, R102: the Secure Monitor Call exception is taken exactly when the condition passes at EL1 or higher, EL2 does
not take the call, and the disable bit of the EL3 in use is 0: the controls of EL2 and EL3 hold against every admitted
`SMC` of either encoding. -/
def Obligations.SecureMonitorCallExactlyWhenEnabled : Prop :=
  ∀ (i : Instr) (s t : State) (r : Report), admitted i s = true → exec i s = .next t →
    t.last = some r →
    (r.outcome = .smcAArch32 ↔
      conditionPassed s i = true ∧ s.pe.el ≠ .el0 ∧ trapApplies s = false ∧
        s.cfg.el3AArch32 = true ∧ s.pe.scrScd = 0#1) ∧
    ((∃ imm16, r.outcome = .smcAArch64 imm16) ↔
      conditionPassed s i = true ∧ s.pe.el ≠ .el0 ∧ trapApplies s = false ∧
        s.cfg.el3AArch32 = false ∧ s.pe.scrEl3Smd = 0#1)

/-- R72: every execution of an `SMC` of either encoding ends in exactly one outcome, reported with the address of the
instruction, or is refused for one of the three reasons; none ends in a fault. -/
def Obligations.EveryExecutionEndsInOneOutcome : Prop :=
  ∀ (i : Instr) (s : State),
    (∃ t o, exec i s = .next t ∧ t.last = some { outcome := o, addr := s.pe.pc }) ∨
    exec i s = .refused .unpredictableIT ∨ exec i s = .refused .shouldBeZero ∨
    exec i s = .refused .noEL3

/-- R99, in the spec's own order (D3, D7, D10; logs 11, 12, 14): what is decided is the first that applies of the
should-be-zero test, the IT-block test, the condition, EL3 absent, User mode, the trap, the disable bit of the EL3 in
use, and the Secure Monitor Call exception. -/
def Obligations.ChecksHaveTheirPriority : Prop :=
  ∀ (i : Instr) (s : State), s.cfg.sbzPolicy = .refuse →
    smcVerdict s i =
      (if i.sbz ≠ 0#12 then .refuse .shouldBeZero
       else if i.isa = .t32 ∧ inITBlock s = true ∧ lastInITBlock s = false then
         .refuse .unpredictableIT
       else if conditionPassed s i = false then .ends .skipped
       else if s.cfg.haveEL3 = false then .refuse .noEL3
       else if s.pe.el = .el0 then .ends .undefined
       else if s.pe.el = .el1 ∧ s.pe.ss = .nonSecure ∧ s.cfg.haveEL2 = true ∧
           s.pe.hcrTsc = 1#1 then
         (if s.cfg.el2AArch32 = true then .ends .hypTrap else .ends .el2TrapAArch64)
       else if s.cfg.el3AArch32 = false ∧ s.pe.scrEl3Smd = 1#1 then .ends .undefined
       else if s.cfg.el3AArch32 = false then .ends (.smcAArch64 0#16)
       else if s.pe.scrScd = 1#1 ∧ s.pe.ss = .secure then .constrained
       else if s.pe.scrScd = 1#1 then .ends .undefined
       else .ends .smcAArch32)

/-- The spec's own choices D6, D7 (log 12) on R71 and R112: a T1 `SMC` in an IT block and not last is refused whether or
not its condition passes; the A1 encoding has no such rule, and last in a block is allowed. -/
def Obligations.T1InsideAnItBlockIsRefused : Prop :=
  (∀ (n : BitVec 4) (s : State), inITBlock s = true → lastInITBlock s = false →
    exec (.smcT1 n 0#12) s = .refused .unpredictableIT) ∧
  (∀ (i : Instr) (s : State), exec i s = .refused .unpredictableIT →
    i.isa = .t32 ∧ inITBlock s = true ∧ lastInITBlock s = false)

/-- The spec's own choice D3 (log 11) on R11, R53, R56: an `SMC` of either encoding with a "(0)" bit set is refused
before anything else under SBZ_policy `refuse`; under `ignore` it does what the same instruction with those bits zero
does; under `Undefined` it takes the Undefined Instruction exception. D3 names that last policy and no more: that it
is tested before the condition, the IT position and an absent EL3 is the model's own choice (log 11). That the
configuration and the text outlive the entry is no part of D3 but the spec's own choice D8, D15 (logs 1, 3, 8). -/
def Obligations.ShouldBeZeroBitsFollowThePolicy : Prop :=
  (∀ (i : Instr) (s : State), i.sbz ≠ 0#12 → s.cfg.sbzPolicy = .refuse →
    exec i s = .refused .shouldBeZero) ∧
  (∀ (c : BitVec 4) (z : BitVec 12) (n : BitVec 4) (s : State), s.cfg.sbzPolicy = .ignore →
    exec (.smcA1 c z n) s = exec (.smcA1 c 0#12 n) s) ∧
  (∀ (n : BitVec 4) (z : BitVec 12) (s : State), s.cfg.sbzPolicy = .ignore →
    exec (.smcT1 n z) s = exec (.smcT1 n 0#12) s) ∧
  (∀ (i : Instr) (s : State), i.sbz ≠ 0#12 → s.cfg.sbzPolicy = .undefined →
    ∃ t, exec i s = .next t ∧ t.draws = s.draws ∧
      Raises s .undefined (takeUndefined s.cfg s.pe s.pe.pc 4) t)

/-- The spec's own choices D10, D11 (log 14) on R9: without EL3 an executed `SMC` of either encoding is refused; without
EL2 `HCR.TSC` reads as 0, so nothing is trapped and its value has no effect. -/
def Obligations.AbsentLevelsRefuseOrReadZero : Prop :=
  (∀ (i : Instr) (s : State), admitted i s = true → conditionPassed s i = true →
    s.cfg.haveEL3 = false → exec i s = .refused .noEL3) ∧
  (∀ (i : Instr) (s : State), s.cfg.haveEL2 = false →
    smcVerdict s i ≠ .ends .hypTrap ∧ smcVerdict s i ≠ .ends .el2TrapAArch64) ∧
  (∀ (i : Instr) (s : State) (b : BitVec 1), s.cfg.haveEL2 = false →
    smcVerdict { s with pe := { s.pe with hcrTsc := b } } i = smcVerdict s i)

/-- R24, R28, R29: what is not read. With EL3 using AArch64 `SCR.SCD` decides nothing, with EL3 using AArch32
`SCR_EL3.SMD` decides nothing, and the A1 encoding does not read the IT-block position. -/
def Obligations.BitsThatAreNotReadDecideNothing : Prop :=
  (∀ (i : Instr) (s : State) (b : BitVec 1), s.cfg.el3AArch32 = false →
    smcVerdict { s with pe := { s.pe with scrScd := b } } i = smcVerdict s i) ∧
  (∀ (i : Instr) (s : State) (b : BitVec 1), s.cfg.el3AArch32 = true →
    smcVerdict { s with pe := { s.pe with scrEl3Smd := b } } i = smcVerdict s i) ∧
  (∀ (c : BitVec 4) (z : BitVec 12) (n : BitVec 4) (s : State) (b l : Bool),
    smcVerdict { s with pe := { s.pe with inIT := b, lastIT := l } } (.smcA1 c z n) =
      smcVerdict s (.smcA1 c z n))

/-- R23 (92 D2; log 6): `ConditionPassed()` is a function of the state and of the instruction, of which it reads `cond`
in A1 and nothing in T1: two instructions of one encoding, with the same `cond` if it is A1, get the same result in one
state, and where the function is left open, the results for different values of `cond`, and for T1, are independent
inputs: any table of them is some state's. -/
def Obligations.ConditionResultDependsOnCondAlone : Prop :=
  (∀ (s : State) (c : BitVec 4) (z z' : BitVec 12) (n n' : BitVec 4),
    conditionPassed s (.smcA1 c z n) = conditionPassed s (.smcA1 c z' n')) ∧
  (∀ (s : State) (z z' : BitVec 12) (n n' : BitVec 4),
    conditionPassed s (.smcT1 n z) = conditionPassed s (.smcT1 n' z')) ∧
  (∀ (s : State) (f : BitVec 4 → Bool) (b : Bool), s.cfg.condition = .given →
    ∃ answers : CondAnswers,
      (∀ (c : BitVec 4) (z : BitVec 12) (n : BitVec 4),
        conditionPassed { s with pe := { s.pe with cp := answers } } (.smcA1 c z n) = f c) ∧
      (∀ (n : BitVec 4) (z : BitVec 12),
        conditionPassed { s with pe := { s.pe with cp := answers } } (.smcT1 n z) = b))

/-- R20, R39: the decision for one execution depends on nothing but the inputs listed there: two states that agree on
the configuration, the three condition inputs, the Exception level, the Security state and the three control bits
decide alike. -/
def Obligations.DecisionReadsOnlyTheListedInputs : Prop :=
  ∀ (i : Instr) (s s' : State), s'.cfg = s.cfg →
    conditionPassed s' i = conditionPassed s i → inITBlock s' = inITBlock s →
    lastInITBlock s' = lastInITBlock s → s'.pe.el = s.pe.el → s'.pe.ss = s.pe.ss →
    s'.pe.hcrTsc = s.pe.hcrTsc → s'.pe.scrScd = s.pe.scrScd →
    s'.pe.scrEl3Smd = s.pe.scrEl3Smd →
    smcVerdict s' i = smcVerdict s i

/-! ## Frames and invariants of the machine -/

/-- R30, R48 with the spec's choices D8, D15 (logs 1, 3, 8): no step of any instruction changes the configuration or any
address of the program text, and the reported address is that of the instruction executed. -/
def Obligations.StepKeepsConfigurationAndText : Prop :=
  ∀ s t : State, step s = .next t →
    t.cfg = s.cfg ∧ (∀ a : Nat, Memory.read t.text a = Memory.read s.text a) ∧
    ∃ r, t.last = some r ∧ r.addr = s.pe.pc

/-- R10, R74, R77: the count of draws rises by one exactly at an execution that reaches
`ConstrainUnpredictable(Unpredictable_SMD)`, and else stays (the counter is the model's, log 10). -/
def Obligations.DrawsAreCountedOnlyWhereMade : Prop :=
  ∀ (i : Instr) (s t : State), admitted i s = true → exec i s = .next t →
    t.draws =
      if conditionPassed s i = true ∧ s.pe.el ≠ .el0 ∧ s.cfg.el3AArch32 = true ∧
          s.pe.scrScd = 1#1 ∧ s.pe.ss = .secure then s.draws + 1
      else s.draws

/-- The invariant: the program text stays canonical, and every state is one its reported outcome can have led to (the
contract column of R98: Monitor mode at EL3, Hyp mode at EL2, EL3 or EL2 using AArch64, the conditions of a NOP, the
immediate 0x0000). Every step keeps it. (That the configuration and the text outlive an entry is the spec's own choice
D8, D15; the canonical form, `last` and `es` are the model's: logs 1, 3, 8, 17.) -/
def Obligations.EveryStepKeepsTheInvariant : Prop :=
  ∀ s t : State, s.Inv → step s = .next t → t.Inv

/-- The reset state has the invariant (its values are the model's, logs 4, 5). -/
def Obligations.ResetHasTheInvariant : Prop := State.reset.Inv

/-- The model's choices (logs 4, 5, 11, 21): at reset SBZ_policy is the spec's `refuse`, EL3 is implemented, nothing has
been executed, and with no program the first step ends the run. -/
def Obligations.ResetHasNoProgram : Prop :=
  State.reset.cfg.sbzPolicy = .refuse ∧ State.reset.cfg.haveEL3 = true ∧
  State.reset.last = none ∧ State.reset.text = [] ∧ step State.reset = .fault .endOfText

/-- R118 with the spec's choices D1, D9, D19 (logs 17, 27, 28): as long as a run has not ended by an exception, only
the pc and the model's counts have moved. After k executions the pc is k instructions further (modulo 2^32: PRESUMED,
log 2), everything else the source names is that of the start, and so is every field of `rest`, but that ITSTATE has
advanced k times in T32 under the standard condition model (PRESUMED, log 7). That the configuration and the text do
not change over a run is the spec's own choice D8, D15 (logs 1, 3). -/
def Obligations.RunWithoutExceptionOnlyMovesThePc : Prop :=
  ∀ (n : Nat) (s t : State),
    (runOf n s = .running t ∨ runOf n s = .textEnded t ∨ ∃ r, runOf n s = .refused r t) →
    NamedUnchanged s t ∧
      t.pe.rest = { s.pe.rest with psr := { s.pe.rest.psr with it := t.pe.rest.psr.it } } ∧
      ∃ k : Nat, k ≤ n ∧ t.pe.pc = s.pe.pc + BitVec.ofNat 32 (4 * k) ∧
        t.pe.rest.psr.it =
          if s.cfg.condition = .standard ∧ s.pe.iset = .t32 then itAdvance^[k] s.pe.rest.psr.it
          else s.pe.rest.psr.it

/-- R118 with the spec's choice D19 (log 17): a run that ends by an event ends with an exception (not Skipped, not
Nop), reported from an instruction of the text at the start's pc plus a multiple of 4 (modulo 2^32: PRESUMED, log 2),
from the same configuration, in a state that outcome promises. That the configuration and the text outlive the raised
exception is no part of R118 but the spec's own choice D8, D15 (logs 1, 3, 8). -/
def Obligations.RunEndsAtTheFirstException : Prop :=
  ∀ (n : Nat) (s t : State) (r : Report), runOf n s = .raised r t →
    r.outcome ≠ .skipped ∧ r.outcome ≠ .nop ∧ t.last = some r ∧ t.cfg = s.cfg ∧
      t.text = s.text ∧ r.outcome.promises t ∧
      (∃ w, Memory.read s.text r.addr.toNat = some w ∧
        ∃ i, decode s.pe.iset w = .instr i) ∧
      ∃ k : Nat, k < n ∧ r.addr = s.pe.pc + BitVec.ofNat 32 (4 * k)

/-- R98, R95 with the spec's choices D17, D19 (log 17): after an exception to an Exception level that uses AArch64, no further
step has a meaning. -/
def Obligations.AArch64EntryLeavesTheSpec : Prop :=
  ∀ (s t : State) (r : Report), step s = .next t → t.last = some r →
    (r.outcome = .el2TrapAArch64 ∨ ∃ imm16, r.outcome = .smcAArch64 imm16) →
    step t = .refused .leftAArch32

/-! ## The informative instantiations (PRESUMED: general knowledge that the spec marks as such) -/

/-- G1, G2 (PRESUMED, log 7): under the standard condition model an A1 `SMC` tests the flags by its own `cond`, a T1
`SMC` by the condition of its IT position, AL outside a block; and a T32 instruction advances ITSTATE. -/
def Obligations.StandardConditionModel : Prop :=
  (∀ (s : State) (c : BitVec 4) (z : BitVec 12) (n : BitVec 4), s.cfg.condition = .standard →
    conditionPassed s (.smcA1 c z n) = conditionHolds c s.pe.rest.psr.nzcv) ∧
  (∀ (s : State) (n : BitVec 4) (z : BitVec 12), s.cfg.condition = .standard →
    s.pe.rest.psr.it = 0#8 → conditionPassed s (.smcT1 n z) = true ∧ inITBlock s = false) ∧
  (∀ (s : State) (n : BitVec 4) (z : BitVec 12), s.cfg.condition = .standard →
    inITBlock s = true →
    conditionPassed s (.smcT1 n z) =
      conditionHolds (s.pe.rest.psr.it.extractLsb 7 4) s.pe.rest.psr.nzcv) ∧
  (∀ (s t : State) (n : BitVec 4), s.cfg.condition = .standard → s.pe.iset = .t32 →
    conditionPassed s (.smcT1 n 0#12) = false → exec (.smcT1 n 0#12) s = .next t →
    inITBlock t = false)

/-- The flag tests of the condition table (G1, PRESUMED, log 7), each pair of rows the negation of the other, for
every value of the flags N, Z, C, V in bits 3 to 0. -/
def Obligations.ConditionTable : Prop :=
  ∀ f : BitVec 4,
    conditionHolds 0x0#4 f = f.getLsbD 2 ∧ conditionHolds 0x1#4 f = !f.getLsbD 2 ∧
    conditionHolds 0x2#4 f = f.getLsbD 1 ∧ conditionHolds 0x3#4 f = !f.getLsbD 1 ∧
    conditionHolds 0x4#4 f = f.getLsbD 3 ∧ conditionHolds 0x5#4 f = !f.getLsbD 3 ∧
    conditionHolds 0x6#4 f = f.getLsbD 0 ∧ conditionHolds 0x7#4 f = !f.getLsbD 0 ∧
    conditionHolds 0x8#4 f = (f.getLsbD 1 && !f.getLsbD 2) ∧
    conditionHolds 0x9#4 f = !conditionHolds 0x8#4 f ∧
    conditionHolds 0xA#4 f = (f.getLsbD 3 == f.getLsbD 0) ∧
    conditionHolds 0xB#4 f = !conditionHolds 0xA#4 f ∧
    conditionHolds 0xC#4 f = (!f.getLsbD 2 && f.getLsbD 3 == f.getLsbD 0) ∧
    conditionHolds 0xD#4 f = !conditionHolds 0xC#4 f ∧ conditionHolds 0xE#4 f = true

/-- G8 (PRESUMED, log 9): under the sketch entry model, EL3 using AArch32, the Secure Monitor Call exception of either
encoding saves the whole status, ITSTATE advanced in T32, and A + 4 in SPSR_mon and LR_mon, masks A, I and F, takes E and
T from the Secure SCTLR, clears IL and IT, clears SCR.NS when it comes from Monitor mode, and goes to MVBAR + 0x08 in
Monitor mode, Secure. Every other register keeps its value: N, Z, C, V, Q, GE among the status bits, and all of `rest`. -/
def Obligations.SketchOfTheSecureMonitorCall : Prop :=
  ∀ (i : Instr) (s : State), reachesDisableTest i s = true → s.cfg.el3AArch32 = true →
    s.pe.scrScd = 0#1 → s.cfg.entry = .sketch →
    ∃ t, exec i s = .next t ∧ t.pe.mode = .monitor ∧ t.pe.el = .el3 ∧ t.pe.ss = .secure ∧
      t.pe.pc = s.pe.rest.mvbar.extractLsb 31 5 ++ 0b01000#5 ∧
      (t.pe.iset = .t32 ↔ s.pe.rest.sctlrS.te = 1#1) ∧ ControlBitsUnchanged s t ∧
      t.pe.rest = { s.pe.rest with
        scrNs := if s.pe.mode = .monitor then 0#1 else s.pe.rest.scrNs
        lrMon := s.pe.pc + 4#32
        spsrMon :=
          { mode := s.pe.mode
            iset := s.pe.iset
            psr := { s.pe.rest.psr with
              it := if s.pe.iset = .t32 then itAdvance s.pe.rest.psr.it
                    else s.pe.rest.psr.it } }
        psr := { s.pe.rest.psr with
          a := 1#1, i := 1#1, f := 1#1, e := s.pe.rest.sctlrS.ee, il := 0#1, it := 0#8 } }

/-- G10 (PRESUMED, log 9): under the sketch entry model, EL3 using AArch32, the Hyp Trap exception saves the whole status
and A itself in SPSR_hyp and ELR_hyp, records EC 0x13 with IL 1 in HSR, and goes to HVBAR + 0x14; A, I and F are each set
unless the matching routing bit of SCR is 1; E and T come from HSCTLR; IL and IT are cleared. Every other register keeps
its value; the ISS of HSR is free. -/
def Obligations.SketchOfTheHypTrap : Prop :=
  ∀ (i : Instr) (s : State), operationRuns i s = true → trapApplies s = true →
    s.cfg.el2AArch32 = true → s.cfg.el3AArch32 = true → s.cfg.entry = .sketch →
    ∃ t, exec i s = .next t ∧ t.pe.mode = .hyp ∧ t.pe.el = .el2 ∧
      t.pe.pc = s.pe.rest.hvbar + 0x14#32 ∧
      (t.pe.iset = .t32 ↔ s.pe.rest.hsctlr.te = 1#1) ∧ ControlBitsUnchanged s t ∧
      t.pe.rest = { s.pe.rest with
        elrHyp := s.pe.pc
        spsrHyp := { mode := s.pe.mode, iset := s.pe.iset, psr := s.pe.rest.psr }
        hsr := { ec := 0x13#6, il := 1#1, iss := t.pe.rest.hsr.iss }
        psr := { s.pe.rest.psr with
          a := if s.pe.rest.scrEa = 1#1 then s.pe.rest.psr.a else 1#1
          i := if s.pe.rest.scrIrq = 1#1 then s.pe.rest.psr.i else 1#1
          f := if s.pe.rest.scrFiq = 1#1 then s.pe.rest.psr.f else 1#1
          e := s.pe.rest.hsctlr.ee
          il := 0#1
          it := 0#8 } }

/-- G9 (PRESUMED, log 9): under the sketch entry model, EL3 using AArch32, an Undefined Instruction exception that Hyp
mode does not take saves the whole status in SPSR_und and A + 4 (A32) or A + 2 (T32) in LR_und, masks I, clears IL and IT,
clears SCR.NS when it comes from Monitor mode, and goes to Undefined mode in the current Security state, at the exception
base address + 0x04 (VBAR, or 0xFFFF0000 when `SCTLR.V` is 1), with T and E from the SCTLR of that state. Every other
register keeps its value. The Exception level of Undefined mode is G3's (log 9). -/
def Obligations.SketchOfTheUndefinedInstruction : Prop :=
  ∀ (i : Instr) (s t : State), exec i s = .next t →
    t.last = some { outcome := .undefined, addr := s.pe.pc } →
    s.cfg.entry = .sketch → s.cfg.el3AArch32 = true → s.pe.mode ≠ .hyp →
    (s.pe.mode = .user ∧ s.pe.ss = .nonSecure → s.pe.rest.hcrTge = 0#1) →
    t.pe.mode = .undefined ∧ t.pe.ss = s.pe.ss ∧ ControlBitsUnchanged s t ∧
      t.pe.rest = { s.pe.rest with
        scrNs := if s.pe.mode = .monitor then 0#1 else s.pe.rest.scrNs
        lrUnd := if s.pe.iset = .t32 then s.pe.pc + 2#32 else s.pe.pc + 4#32
        spsrUnd := { mode := s.pe.mode, iset := s.pe.iset, psr := s.pe.rest.psr }
        psr := { s.pe.rest.psr with
          i := 1#1, e := t.pe.rest.psr.e, il := 0#1, it := 0#8 } } ∧
      (s.pe.ss = .secure → t.pe.el = .el3 ∧ t.pe.rest.psr.e = s.pe.rest.sctlrS.ee ∧
        (t.pe.iset = .t32 ↔ s.pe.rest.sctlrS.te = 1#1) ∧
        t.pe.pc = (if s.pe.rest.sctlrS.v = 1#1 then 0xFFFF0004#32
                   else s.pe.rest.vbarS + 4#32)) ∧
      (s.pe.ss = .nonSecure → t.pe.el = .el1 ∧ t.pe.rest.psr.e = s.pe.rest.sctlrNs.ee ∧
        (t.pe.iset = .t32 ↔ s.pe.rest.sctlrNs.te = 1#1) ∧
        t.pe.pc = (if s.pe.rest.sctlrNs.v = 1#1 then 0xFFFF0004#32
                   else s.pe.rest.vbarNs + 4#32))

/-- G9 (PRESUMED, log 9): under the sketch entry model, EL3 using AArch32, an Undefined Instruction exception from Hyp
mode, or from Non-secure User mode when `HCR.TGE` is 1 (and EL2 is implemented: the model's choice, logs 9, 14), enters
Hyp mode with A in ELR_hyp and EC 0x00 in HSR, at HVBAR + 0x04 from Hyp mode and HVBAR + 0x14 from User mode. SPSR_hyp
holds the whole old status (which G9 says of the first case; the model's choice in the second, log 9). Every register
that neither G9 nor log 9 names keeps its value. The new A, I, F, E, T, IL and IT, which G9 does not give, are not stated. -/
def Obligations.SketchOfTheUndefinedInstructionInHypMode : Prop :=
  ∀ (i : Instr) (s t : State), exec i s = .next t →
    t.last = some { outcome := .undefined, addr := s.pe.pc } →
    s.cfg.entry = .sketch → s.cfg.el3AArch32 = true →
    (s.pe.mode = .hyp ∨ (s.pe.mode = .user ∧ s.pe.ss = .nonSecure ∧ s.cfg.haveEL2 = true ∧
      s.pe.rest.hcrTge = 1#1)) →
    t.pe.mode = .hyp ∧ t.pe.el = .el2 ∧ ControlBitsUnchanged s t ∧
      t.pe.pc = s.pe.rest.hvbar + (if s.pe.mode = .hyp then 0x04#32 else 0x14#32) ∧
      t.pe.rest.hsr.ec = 0x00#6 ∧
      t.pe.rest = { s.pe.rest with
        elrHyp := s.pe.pc
        spsrHyp := { mode := s.pe.mode, iset := s.pe.iset, psr := s.pe.rest.psr }
        hsr := t.pe.rest.hsr
        psr := { t.pe.rest.psr with
          nzcv := s.pe.rest.psr.nzcv, q := s.pe.rest.psr.q, ge := s.pe.rest.psr.ge } }

/-! ## The assembler -/

/-- 92 D16 on R62 (log 25): assembling the canonical disassembly of an instruction that an assembler may write gives
the instruction back, in A32 at any position and in T32 at the position's condition. -/
def Obligations.AssembleOfDisassembleIsTheInstruction : Prop :=
  ∀ (i : Instr) (position : BitVec 4), i.canonical = true → position ≠ 0b1111#4 →
    assemble i.isa position (disassemble position i) = .instr i

/-- R58, R53, R113 (log 25): without `.N` an assembler of A32 code accepts a statement exactly when the number is in 0
to 15, and one of T32 code exactly when besides `<c>` (AL if left out) is the condition of the position (G7, PRESUMED,
log 25); both reject another number as out of range, and every `.N` statement, as there is no 16-bit encoding (G7).
What is accepted is a well-formed instruction of the instruction set with every "(0)" bit zero, the number as its
immediate and, in A1, `<c>` in its `cond` field. -/
def Obligations.AssemblerAcceptsZeroToFifteen : Prop :=
  (∀ (isa : InstrSet) (position : BitVec 4) (a : AsmSmc), a.qual = some .narrow →
    assemble isa position a = .error .noNarrowEncoding) ∧
  (∀ (position : BitVec 4) (a : AsmSmc), a.qual ≠ some .narrow →
    ((∃ i, assemble .a32 position a = .instr i) ↔ (0 ≤ a.imm ∧ a.imm ≤ 15))) ∧
  (∀ (position : BitVec 4) (a : AsmSmc), a.qual ≠ some .narrow →
    ((∃ i, assemble .t32 position a = .instr i) ↔
      (0 ≤ a.imm ∧ a.imm ≤ 15 ∧ condOrAl a.cond = position))) ∧
  (∀ (isa : InstrSet) (position : BitVec 4) (a : AsmSmc), a.qual ≠ some .narrow →
    (a.imm < 0 ∨ 15 < a.imm) → assemble isa position a = .error .immOutOfRange) ∧
  (∀ (isa : InstrSet) (position : BitVec 4) (a : AsmSmc) (i : Instr),
    assemble isa position a = .instr i →
    i.canonical = true ∧ i.isa = isa ∧ (i.imm4.toNat : Int) = a.imm ∧
      (isa = .a32 → ∃ n, i = .smcA1 (condOrAl a.cond) 0#12 n))
end

