-- ==== Sys2Proof/Laws/Decode.lean ====
section
/-! SUPPORT. The bits of an encoding, box by box, and the fixed bits of the two patterns. -/

namespace Sys2Proof

/-- Bit `j` of an A1 word, by the boxes of the diagram (R50). -/
theorem getLsbD_encodeA1 (c : BitVec 4) (z : BitVec 12) (n : BitVec 4) (j : Nat) :
    (encode (.smcA1 c z n)).getLsbD j =
      if j < 4 then n.getLsbD j
      else if j < 8 then (0b0111#4).getLsbD (j - 4)
      else if j < 20 then z.getLsbD (j - 8)
      else if j < 28 then (0b00010110#8).getLsbD (j - 20)
      else c.getLsbD (j - 28) := by
  by_cases hj : j < 32
  swap
  · rw [BitVec.getLsbD_of_ge _ j (by omega)]
    split_ifs <;> first | omega | exact (BitVec.getLsbD_of_ge _ _ (by omega)).symm
  change (c ++ 0b00010#5 ++ 0b11#2 ++ 0b0#1 ++ z ++ 0b0111#4 ++ n :
    BitVec (4 + 5 + 2 + 1 + 12 + 4 + 4)).getLsbD j = _
  simp only [BitVec.getLsbD_append]
  interval_cases j <;> simp

/-- Bit `j` of a T1 word, by the boxes of the diagram (R54). -/
theorem getLsbD_encodeT1 (n : BitVec 4) (z : BitVec 12) (j : Nat) :
    (encode (.smcT1 n z)).getLsbD j =
      if j < 12 then z.getLsbD j
      else if j < 16 then (0b1000#4).getLsbD (j - 12)
      else if j < 20 then n.getLsbD (j - 16)
      else (0b111101111111#12).getLsbD (j - 20) := by
  by_cases hj : j < 32
  swap
  · rw [BitVec.getLsbD_of_ge _ j (by omega)]
    split_ifs <;> first | omega | exact (BitVec.getLsbD_of_ge _ _ (by omega)).symm
  change (0b11110111111#11 ++ 0b1#1 ++ n ++ 0b10#2 ++ 0b0#1 ++ 0b0#1 ++ z :
    BitVec (11 + 1 + 4 + 2 + 1 + 1 + 12)).getLsbD j = _
  simp only [BitVec.getLsbD_append]
  interval_cases j <;> simp

theorem encodeA1_masked (c : BitVec 4) (z : BitVec 12) (n : BitVec 4) :
    encode (.smcA1 c z n) &&& 0x0FF000F0#32 = 0x01600070#32 := by
  apply BitVec.eq_of_getLsbD_eq
  intro j hj
  rw [BitVec.getLsbD_and, getLsbD_encodeA1]
  interval_cases j <;> simp

theorem encodeT1_masked (n : BitVec 4) (z : BitVec 12) :
    encode (.smcT1 n z) &&& 0xFFF0F000#32 = 0xF7F08000#32 := by
  apply BitVec.eq_of_getLsbD_eq
  intro j hj
  rw [BitVec.getLsbD_and, getLsbD_encodeT1]
  interval_cases j <;> simp

/-- Bit 20 is 0 in every A1 word. -/
theorem bit20_of_matchesA1 {w : Word} (h : w &&& 0x0FF000F0#32 = 0x01600070#32) :
    w.getLsbD 20 = false := by
  have := congrArg (fun v => v.getLsbD 20) h
  simpa using this

/-- Bit 20 is 1 in every T1 word. -/
theorem bit20_of_matchesT1 {w : Word} (h : w &&& 0xFFF0F000#32 = 0xF7F08000#32) :
    w.getLsbD 20 = true := by
  have := congrArg (fun v => v.getLsbD 20) h
  simpa using this

/-- What the A32 decoder can answer (R51, R52). -/
theorem decodeA32_cases (w : Word) :
    (decodeA32 w = .reject .notA1 ∧ matchesA1 w = false) ∨
    (decodeA32 w = .reject .condIs1111 ∧ matchesA1 w = true ∧ condA1 w = 0b1111#4) ∨
    (decodeA32 w = .instr (.smcA1 (condA1 w) (sbzA1 w) (imm4A1 w)) ∧ matchesA1 w = true ∧
      condA1 w ≠ 0b1111#4) := by
  unfold decodeA32
  cases hm : matchesA1 w
  · simp
  · by_cases hc : condA1 w = 0b1111#4 <;> simp [hc]

/-- What the T32 decoder can answer (R55). -/
theorem decodeT32_cases (w : Word) :
    (decodeT32 w = .reject .notT1 ∧ matchesT1 w = false) ∨
    (decodeT32 w = .instr (.smcT1 (imm4T1 w) (sbzT1 w)) ∧ matchesT1 w = true) := by
  unfold decodeT32
  cases matchesT1 w <;> simp

end Sys2Proof
end

