-- ==== Sys2Proof/Laws/Memory.lean ====
section
/-! SUPPORT. The laws of the program text: a read after a write, and the canonical form. -/

namespace Sys2Proof.Machine

open Sys2Proof

theorem Memory.read_write_same (m : Memory) (x : Nat) (v : Word) :
    Memory.read (Memory.write m x v) x = some v := by
  induction m with
  | nil => simp [Memory.write, Memory.read]
  | cons e m ih =>
    obtain ⟨a, w⟩ := e
    simp only [Memory.write]
    split
    · simp [Memory.read]
    · split
      · simp [Memory.read]
      · next h => simp [Memory.read, Ne.symm h, ih]

theorem Memory.read_write_other (m : Memory) {x y : Nat} (v : Word) (h : y ≠ x) :
    Memory.read (Memory.write m x v) y = Memory.read m y := by
  induction m with
  | nil => simp [Memory.write, Memory.read, Ne.symm h]
  | cons e m ih =>
    obtain ⟨a, w⟩ := e
    simp only [Memory.write]
    split
    · simp [Memory.read, Ne.symm h]
    · split
      · next hx => subst hx; simp [Memory.read, Ne.symm h]
      · simp [Memory.read, ih]

theorem Memory.wfFrom_write (m : Memory) (x : Nat) (v : Word) (hx : x < 2 ^ 32) :
    ∀ lo, lo ≤ x → Memory.wfFrom lo m = true → Memory.wfFrom lo (Memory.write m x v) = true := by
  induction m with
  | nil => intro lo hlo _; simpa [Memory.write, Memory.wfFrom, hlo] using hx
  | cons e m ih =>
    obtain ⟨a, w⟩ := e
    intro lo hlo h
    simp only [Memory.wfFrom, Bool.and_eq_true, decide_eq_true_eq] at h
    obtain ⟨⟨ha, hb⟩, hm⟩ := h
    simp only [Memory.write]
    split
    · next hxa =>
      have : x + 1 ≤ a := hxa
      simpa [Memory.wfFrom, hlo, this, hm] using ⟨hx, hb⟩
    · split
      · next hxe => subst hxe; simpa [Memory.wfFrom, hlo, hm] using hx
      · next h1 h2 =>
        have : a + 1 ≤ x := by omega
        simpa [Memory.wfFrom, ha, ih (a + 1) this hm] using hb

/-- A write keeps the canonical form. -/
theorem Memory.wf_write (m : Memory) (x : Nat) (v : Word) (hx : x < 2 ^ 32)
    (h : Memory.wf m = true) : Memory.wf (Memory.write m x v) = true :=
  Memory.wfFrom_write m x v hx 0 (Nat.zero_le x) h

/-- The text of the reset state has the canonical form. -/
theorem Memory.wf_reset : Memory.wf State.reset.text = true := rfl

/-- Placing an instruction at the pc keeps the canonical form: a pc is always inside the address space. -/
theorem Memory.wf_write_pc (m : Memory) (pc : Word) (v : Word) (h : Memory.wf m = true) :
    Memory.wf (Memory.write m pc.toNat v) = true :=
  Memory.wf_write m pc.toNat v pc.isLt h

end Sys2Proof.Machine
end

