-- ==== Sys2Proof/Laws/State.lean ====
section
/-! SUPPORT. One lemma for each field of each update of the state, so that no later proof unfolds an update. -/

namespace Sys2Proof.Machine

open Sys2Proof

@[simp] theorem conclude_cfg (o : SmcOutcome) (s : State) : (conclude o s).cfg = s.cfg := rfl
@[simp] theorem conclude_text (o : SmcOutcome) (s : State) : (conclude o s).text = s.text := rfl
@[simp] theorem conclude_draws (o : SmcOutcome) (s : State) : (conclude o s).draws = s.draws := rfl
@[simp] theorem conclude_last (o : SmcOutcome) (s : State) :
    (conclude o s).last = some { outcome := o, addr := s.pe.pc } := rfl
@[simp] theorem conclude_pe (o : SmcOutcome) (s : State) :
    (conclude o s).pe = peAfter o s.cfg s.pe := rfl

@[simp] theorem countDraw_cfg (s : State) : (countDraw s).cfg = s.cfg := rfl
@[simp] theorem countDraw_text (s : State) : (countDraw s).text = s.text := rfl
@[simp] theorem countDraw_pe (s : State) : (countDraw s).pe = s.pe := rfl
@[simp] theorem countDraw_draws (s : State) : (countDraw s).draws = s.draws + 1 := rfl
@[simp] theorem countDraw_last (s : State) : (countDraw s).last = s.last := rfl

@[simp] theorem withFetchWord_cfg (s : State) (nbits w : Nat) :
    (s.withFetchWord nbits w).cfg = s.cfg := rfl
@[simp] theorem withFetchWord_text (s : State) (nbits w : Nat) :
    (s.withFetchWord nbits w).text = Memory.write s.text s.pe.pc.toNat (tableBits nbits w) := rfl
@[simp] theorem withFetchWord_pc (s : State) (nbits w : Nat) :
    (s.withFetchWord nbits w).pe.pc = s.pe.pc := rfl
@[simp] theorem withFetchWord_es (s : State) (nbits w : Nat) :
    (s.withFetchWord nbits w).pe.es = .aarch32 := rfl
@[simp] theorem withFetchWord_iset (s : State) (nbits w : Nat) :
    (s.withFetchWord nbits w).pe.iset = (tableIsa (tableBits nbits w)).getD s.pe.iset := rfl
@[simp] theorem withFetchWord_draws (s : State) (nbits w : Nat) :
    (s.withFetchWord nbits w).draws = s.draws := rfl
@[simp] theorem withFetchWord_last (s : State) (nbits w : Nat) :
    (s.withFetchWord nbits w).last = s.last := rfl

section withAnswers
variable (cfg : SmcConfig) (pe : PE)

@[simp] theorem withAnswers_iset : (withAnswers cfg pe).iset = pe.iset := by
  unfold withAnswers; split <;> rfl
@[simp] theorem withAnswers_pc : (withAnswers cfg pe).pc = pe.pc := by
  unfold withAnswers; split <;> rfl
@[simp] theorem withAnswers_el : (withAnswers cfg pe).el = pe.el := by
  unfold withAnswers; split <;> rfl
@[simp] theorem withAnswers_es : (withAnswers cfg pe).es = pe.es := by
  unfold withAnswers; split <;> rfl
@[simp] theorem withAnswers_mode : (withAnswers cfg pe).mode = pe.mode := by
  unfold withAnswers; split <;> rfl
@[simp] theorem withAnswers_ss : (withAnswers cfg pe).ss = pe.ss := by
  unfold withAnswers; split <;> rfl
@[simp] theorem withAnswers_hcrTsc : (withAnswers cfg pe).hcrTsc = pe.hcrTsc := by
  unfold withAnswers; split <;> rfl
@[simp] theorem withAnswers_scrScd : (withAnswers cfg pe).scrScd = pe.scrScd := by
  unfold withAnswers; split <;> rfl
@[simp] theorem withAnswers_scrEl3Smd : (withAnswers cfg pe).scrEl3Smd = pe.scrEl3Smd := by
  unfold withAnswers; split <;> rfl
@[simp] theorem withAnswers_rest : (withAnswers cfg pe).rest = pe.rest := by
  unfold withAnswers; split <;> rfl

end withAnswers

section nextInstruction
variable (cfg : SmcConfig) (pe : PE)

@[simp] theorem nextInstruction_iset : (nextInstruction cfg pe).iset = pe.iset := by
  simp [nextInstruction]
@[simp] theorem nextInstruction_pc : (nextInstruction cfg pe).pc = pe.pc + 4#32 := by
  simp [nextInstruction, smcLength]
@[simp] theorem nextInstruction_el : (nextInstruction cfg pe).el = pe.el := by
  simp [nextInstruction]
@[simp] theorem nextInstruction_es : (nextInstruction cfg pe).es = pe.es := by
  simp [nextInstruction]
@[simp] theorem nextInstruction_mode : (nextInstruction cfg pe).mode = pe.mode := by
  simp [nextInstruction]
@[simp] theorem nextInstruction_ss : (nextInstruction cfg pe).ss = pe.ss := by
  simp [nextInstruction]
@[simp] theorem nextInstruction_hcrTsc : (nextInstruction cfg pe).hcrTsc = pe.hcrTsc := by
  simp [nextInstruction]
@[simp] theorem nextInstruction_scrScd : (nextInstruction cfg pe).scrScd = pe.scrScd := by
  simp [nextInstruction]
@[simp] theorem nextInstruction_scrEl3Smd :
    (nextInstruction cfg pe).scrEl3Smd = pe.scrEl3Smd := by
  simp [nextInstruction]
@[simp] theorem nextInstruction_rest : (nextInstruction cfg pe).rest = restAfter cfg pe := by
  simp [nextInstruction]

end nextInstruction

end Sys2Proof.Machine
end

