-- ==== Sys2Proof/Laws/Ops.lean ====
section
/-! SUPPORT. For each shared operation, once, everything it can do; and the inversion of one step. -/

namespace Sys2Proof.Machine

open Sys2Proof

/-- Every meaning is the settling of its verdict. -/
theorem exec_eq_settle (i : Instr) (s : State) : exec i s = settle (smcVerdict s i) s := by
  cases i <;> rfl

/-- A verdict that answers a next state ends the execution, by its outcome or by the drawn choice. -/
theorem settle_next_cases {v : Verdict} {s t : State} (h : settle v s = .next t) :
    (∃ o, v = .ends o ∧ t = conclude o s) ∨
    (v = .constrained ∧
      t = conclude (outcomeOfChoice (Config.smdChoice s.draws)) (countDraw s)) := by
  cases v with
  | ends o => simp only [settle, Host.Outcome.next.injEq] at h; exact .inl ⟨o, rfl, h.symm⟩
  | constrained => simp only [settle, Host.Outcome.next.injEq] at h; exact .inr ⟨rfl, h.symm⟩
  | refuse r => cases h

/-- A verdict never ends in a fault. -/
theorem settle_ne_fault (v : Verdict) (s : State) (f : Fault) : settle v s ≠ .fault f := by
  cases v <;> simp [settle]

/-- A step that answers a next state fetched, decoded and executed an instruction in AArch32. -/
theorem step_next_cases {s t : State} (h : step s = .next t) :
    ∃ w i, s.pe.es = .aarch32 ∧ fetch s = some w ∧ decode s.pe.iset w = .instr i ∧
      exec i s = .next t := by
  unfold step at h
  split at h
  · cases h
  · next hes =>
    split at h
    · cases h
    · next w hw =>
      split at h
      · cases h
      · next i hi => exact ⟨w, i, hes, hw, hi, h⟩

/-- What the check for UNDEFINED or a trap can answer (R75). -/
theorem checkForSMCUndefOrTrap_cases (s : State) :
    (checkForSMCUndefOrTrap s = some .undefined ∧ inUserMode s = true) ∨
    (checkForSMCUndefOrTrap s = some .hypTrap ∧ inUserMode s = false ∧ trapApplies s = true ∧
      s.cfg.el2AArch32 = true) ∨
    (checkForSMCUndefOrTrap s = some .el2TrapAArch64 ∧ inUserMode s = false ∧
      trapApplies s = true ∧ s.cfg.el2AArch32 = false) ∨
    (checkForSMCUndefOrTrap s = none ∧ inUserMode s = false ∧ trapApplies s = false) := by
  unfold checkForSMCUndefOrTrap trapApplies
  cases inUserMode s <;> cases (inNonSecureEL1 s && hcrTscRead s == 1#1) <;>
    cases s.cfg.el2AArch32 <;> simp

/-- What the disable test can answer (R76 to R79). -/
theorem disableOrTake_cases (s : State) :
    (disableOrTake s = .ends .undefined ∧ s.cfg.el3AArch32 = false ∧ s.pe.scrEl3Smd = 1#1) ∨
    (disableOrTake s = .ends (.smcAArch64 0#16) ∧ s.cfg.el3AArch32 = false ∧
      s.pe.scrEl3Smd ≠ 1#1) ∨
    (disableOrTake s = .constrained ∧ s.cfg.el3AArch32 = true ∧ s.pe.scrScd = 1#1 ∧
      s.pe.ss = .secure) ∨
    (disableOrTake s = .ends .undefined ∧ s.cfg.el3AArch32 = true ∧ s.pe.scrScd = 1#1 ∧
      s.pe.ss ≠ .secure) ∨
    (disableOrTake s = .ends .smcAArch32 ∧ s.cfg.el3AArch32 = true ∧ s.pe.scrScd ≠ 1#1) := by
  unfold disableOrTake
  cases h3 : s.cfg.el3AArch32
  · by_cases hm : s.pe.scrEl3Smd = 1#1 <;> simp [hm, zeros]
  · by_cases hd : s.pe.scrScd = 1#1
    · by_cases hs : s.pe.ss = .secure <;> simp [hd, hs]
    · simp [hd]

/-- What the decision for one execution can be, wrapper tests first (R70, R71, R74, R80). -/
theorem smcVerdict_cases (s : State) (i : Instr) :
    (smcVerdict s i = .refuse .shouldBeZero ∧ i.sbz ≠ 0#12 ∧ s.cfg.sbzPolicy = .refuse) ∨
    (smcVerdict s i = .ends .undefined ∧ i.sbz ≠ 0#12 ∧ s.cfg.sbzPolicy = .undefined) ∨
    ((i.sbz = 0#12 ∨ s.cfg.sbzPolicy = .ignore) ∧
      ((smcVerdict s i = .refuse .unpredictableIT ∧ itAllows s i = false) ∨
       (smcVerdict s i = .ends .skipped ∧ itAllows s i = true ∧ conditionPassed s i = false) ∨
       (smcVerdict s i = smcCommon s ∧ itAllows s i = true ∧ conditionPassed s i = true))) := by
  cases i with
  | smcA1 c z n =>
    by_cases hz : z = 0#12
    · cases hc : conditionPassed s (.smcA1 c z n) <;>
        simp_all [smcVerdict, sbzTest, underCondition, Instr.sbz, itAllows]
    · cases hp : s.cfg.sbzPolicy <;> cases hc : conditionPassed s (.smcA1 c z n) <;>
        simp_all [smcVerdict, sbzTest, underCondition, Instr.sbz, itAllows]
  | smcT1 n z =>
    by_cases hz : z = 0#12
    · cases hi : inITBlock s <;> cases hl : lastInITBlock s <;>
        cases hc : conditionPassed s (.smcT1 n z) <;>
        simp_all [smcVerdict, sbzTest, itTest, underCondition, Instr.sbz, itAllows]
    · cases hp : s.cfg.sbzPolicy <;> cases hi : inITBlock s <;>
        cases hl : lastInITBlock s <;>
        cases hc : conditionPassed s (.smcT1 n z) <;>
        simp_all [smcVerdict, sbzTest, itTest, underCondition, Instr.sbz, itAllows]

/-- `TakeHypTrap` keeps its contract under either entry model (R98). -/
theorem takeHypTrap_contract (cfg : SmcConfig) (pe : PE) (a : Word) (len : Nat) :
    (takeHypTrap cfg pe a len).el = .el2 ∧ (takeHypTrap cfg pe a len).mode = .hyp ∧
      (takeHypTrap cfg pe a len).es = .aarch32 := by
  unfold takeHypTrap
  split <;> simp [sketchTakeHypTrap, sketchEnterHyp]

/-- `TakeSMCException` keeps its contract under either entry model (R98). -/
theorem takeSMCException_contract (cfg : SmcConfig) (pe : PE) (a : Word) (len : Nat) :
    (takeSMCException cfg pe a len).el = .el3 ∧
      (takeSMCException cfg pe a len).mode = .monitor ∧
      (takeSMCException cfg pe a len).es = .aarch32 := by
  unfold takeSMCException
  split <;> simp [sketchTakeSMCException]

/-- `TakeEL2Trap_AArch64` keeps its contract (R98). -/
theorem takeEL2TrapAArch64_contract (cfg : SmcConfig) (pe : PE) (a : Word) (len : Nat) :
    (takeEL2TrapAArch64 cfg pe a len).el = .el2 ∧
      (takeEL2TrapAArch64 cfg pe a len).es = .aarch64 := ⟨rfl, rfl⟩

/-- `CallSecureMonitor` keeps its contract (R98). -/
theorem callSecureMonitor_contract (imm16 : BitVec 16) (cfg : SmcConfig) (pe : PE) (a : Word)
    (len : Nat) :
    (callSecureMonitor imm16 cfg pe a len).el = .el3 ∧
      (callSecureMonitor imm16 cfg pe a len).es = .aarch64 := ⟨rfl, rfl⟩

/-- `rest` after an `SMC` that raises nothing. -/
theorem restAfter_cases (cfg : SmcConfig) (pe : PE) :
    (cfg.condition = .standard ∧ pe.iset = .t32 ∧
      restAfter cfg pe =
        { pe.rest with psr := { pe.rest.psr with it := itAdvance pe.rest.psr.it } }) ∨
    (¬(cfg.condition = .standard ∧ pe.iset = .t32) ∧ restAfter cfg pe = pe.rest) := by
  unfold restAfter
  cases hc : cfg.condition <;> cases hi : pe.iset <;> simp

end Sys2Proof.Machine
end

