-- ==== Sys2Proof/Laws/PerInstr.lean ====
section
/-! SUPPORT. Statements made for each instruction, about the instruction as syntax. -/

namespace Sys2Proof.Laws

open Sys2Proof

/-- The encoding of the instruction has the fixed bits of its row of the opcode table, and not those of the other. -/
def RowPattern.Statement (i : Instr) : Prop :=
  match i.isa with
  | .a32 => matchesA1 (encode i) = true ∧ matchesT1 (encode i) = false
  | .t32 => matchesT1 (encode i) = true ∧ matchesA1 (encode i) = false

theorem RowPattern.smcA1 (c : BitVec 4) (z : BitVec 12) (n : BitVec 4) :
    RowPattern.Statement (.smcA1 c z n) := by
  have h := encodeA1_masked c z n
  refine ⟨by simp [matchesA1, h], ?_⟩
  simp only [matchesT1, beq_eq_false_iff_ne, ne_eq]
  intro h'
  exact absurd (bit20_of_matchesT1 h') (by simp only [bit20_of_matchesA1 h]; decide)

theorem RowPattern.smcT1 (n : BitVec 4) (z : BitVec 12) :
    RowPattern.Statement (.smcT1 n z) := by
  have h := encodeT1_masked n z
  refine ⟨by simp [matchesT1, h], ?_⟩
  simp only [matchesA1, beq_eq_false_iff_ne, ne_eq]
  intro h'
  exact absurd (bit20_of_matchesA1 h') (by simp only [bit20_of_matchesT1 h]; decide)

end Sys2Proof.Laws
end

