-- ==== Sys2Proof/Tests/Slice0.lean ====
section
/-! SUPPORT. The model's own tests. Expected results are the vectors of 95_test_vectors.md (A, T, V, W, X and the
programs P), which the spec derives from its rules, or are worked by hand from the rule named. The second half shows,
for every statement with hypotheses, a concrete state and operands that meet them. -/

namespace Sys2Proof.Tests

open Sys2Proof Sys2Proof.Machine

/-! ## States the tests run on -/

/-- The PE of vector V09: EL1, Non-secure, every control bit 0, the condition passed, outside an IT block. -/
def pe1 : PE :=
  { PE.reset with el := .el1, ss := .nonSecure, pc := 0x00008000#32 }

/-- The state of vector V09, EL3 and EL2 using AArch32. -/
def v09 : State := { State.reset with pe := pe1 }

/-- EL3 using AArch64 (vectors V33 on). -/
def v41 : State := { v09 with cfg := { v09.cfg with el3AArch32 := false } }

/-- `s` with other inputs of R39. -/
def withInputs (s : State) (el : EL) (ss : SecurityState) (tsc disable : BitVec 1) : State :=
  { s with
    pe := { s.pe with
      el := el
      ss := ss
      hcrTsc := tsc
      scrScd := if s.cfg.el3AArch32 then disable else 0
      scrEl3Smd := if s.cfg.el3AArch32 then 0 else disable } }

/-- `s` with other answers of the three predicate functions. -/
def withCond (s : State) (cp inIT lastIT : Bool) : State :=
  { s with pe := { s.pe with cp := .always cp, inIT := inIT, lastIT := lastIT } }

/-- `SMC #0`, A1 and T1. -/
def a1 : Instr := .smcA1 14#4 0#12 0#4
def t1 : Instr := .smcT1 0#4 0#12

/-! ## Well-formedness: an ill-formed term for each check -/

theorem test_wf_refuses_cond_1111 : Instr.wf (.smcA1 15#4 0#12 0#4) = false := by decide
theorem test_wf_accepts_largest_cond : Instr.wf (.smcA1 14#4 0xFFF#12 15#4) = true := by decide
theorem test_canonical_refuses_sbz :
    Instr.canonical (.smcA1 14#4 0x800#12 0#4) = false ∧
    Instr.canonical (.smcT1 0#4 0x001#12) = false ∧
    Instr.canonical (.smcA1 15#4 0#12 0#4) = false := by decide

/-! ## Decoding (vectors A01 to A22, T01 to T15) -/

theorem test_decode_A1_yes :
    decode .a32 0xE1600070#32 = .instr (.smcA1 14#4 0#12 0#4) ∧
    decode .a32 0xE160007F#32 = .instr (.smcA1 14#4 0#12 15#4) ∧
    decode .a32 0x01600071#32 = .instr (.smcA1 0#4 0#12 1#4) ∧
    decode .a32 0x11600073#32 = .instr (.smcA1 1#4 0#12 3#4) ∧
    decode .a32 0xD160007A#32 = .instr (.smcA1 13#4 0#12 10#4) ∧
    decode .a32 0xE1600170#32 = .instr (.smcA1 14#4 0x001#12 0#4) ∧
    decode .a32 0xE1680070#32 = .instr (.smcA1 14#4 0x800#12 0#4) ∧
    decode .a32 0xE16FFF70#32 = .instr (.smcA1 14#4 0xFFF#12 0#4) := by decide

theorem test_decode_A1_no :
    decode .a32 0xF1600070#32 = .reject .condIs1111 ∧
    ([0xE1700070#32, 0xE1400070#32, 0xE1200070#32, 0xE1000070#32, 0xE1600060#32, 0xE1600010#32,
      0xE16000F0#32, 0xE0600070#32, 0xE3600070#32, 0xE1E00070#32, 0xE5600070#32, 0xE9600070#32,
      0x00000000#32].all fun w => decode .a32 w == .reject .notA1) = true := by decide

theorem test_decode_T1_yes :
    decode .t32 (ofHalfwords 0xF7F0#16 0x8000#16) = .instr (.smcT1 0#4 0#12) ∧
    decode .t32 (ofHalfwords 0xF7FF#16 0x8000#16) = .instr (.smcT1 15#4 0#12) ∧
    decode .t32 (ofHalfwords 0xF7F9#16 0x8000#16) = .instr (.smcT1 9#4 0#12) ∧
    decode .t32 (ofHalfwords 0xF7F0#16 0x8001#16) = .instr (.smcT1 0#4 0x001#12) ∧
    decode .t32 (ofHalfwords 0xF7F0#16 0x8800#16) = .instr (.smcT1 0#4 0x800#12) ∧
    decode .t32 (ofHalfwords 0xF7F0#16 0x8FFF#16) = .instr (.smcT1 0#4 0xFFF#12) := by decide

theorem test_decode_T1_no :
    ([ofHalfwords 0xF7E0#16 0x8000#16, ofHalfwords 0xF7F0#16 0xA000#16,
      ofHalfwords 0xF7F0#16 0x9000#16, ofHalfwords 0xF7F0#16 0x0000#16,
      ofHalfwords 0xF7F0#16 0xC000#16, ofHalfwords 0xF3F0#16 0x8000#16,
      ofHalfwords 0xFFF0#16 0x8000#16, ofHalfwords 0xF7D0#16 0x8000#16,
      ofHalfwords 0xE7F0#16 0x8000#16].all fun w => decode .t32 w == .reject .notT1) = true := by
  decide

/-- A PE executing A32 code does not meet T1, and the reverse (R21). -/
theorem test_decode_by_instruction_set :
    decode .t32 0xE1600070#32 = .reject .notT1 ∧
    decode .a32 0xF7F08000#32 = .reject .notA1 := by decide

/-- The words of the assembly tables of 95_test_vectors.md section 3. -/
theorem test_encode_words :
    encode (.smcA1 9#4 0#12 0#4) = 0x91600070#32 ∧
    encode (.smcA1 14#4 0#12 5#4) = 0xE1600075#32 ∧
    encode (.smcT1 5#4 0#12) = 0xF7F58000#32 := by decide

theorem test_decodeTableWord :
    decodeTableWord 32 0x01600070 = some (.smcA1 0#4 0#12 0#4) ∧
    decodeTableWord 32 0xF7F08000 = some (.smcT1 0#4 0#12) ∧
    decodeTableWord 32 0xF1600070 = none := by decide

/-! ## The operation (vectors V01 to V64) -/

def levels : List EL := [.el0, .el1, .el2, .el3]
def bits : List (BitVec 1) := [0#1, 1#1]

/-- The 64 rows of section 4, with `ss` Non-secure or Secure. -/
def truthTable : List State :=
  [v09, v41].flatMap fun s => levels.flatMap fun el =>
    [SecurityState.nonSecure, SecurityState.secure].flatMap fun ss =>
      bits.flatMap fun tsc => bits.map fun d => withInputs s el ss tsc d

/-- The counts the spec gives for the 64 rows: 32 Undefined (16 at EL0, 16 by the disable bit), 4 trapped, 11 to
Monitor mode, 11 to an AArch64 EL3, 6 Nop or Undefined. -/
theorem test_truth_table_counts :
    truthTable.length = 64 ∧
    truthTable.countP (fun s => smcVerdict s a1 == .ends .undefined) = 32 ∧
    truthTable.countP (fun s => smcVerdict s a1 == .ends .hypTrap) = 4 ∧
    truthTable.countP (fun s => smcVerdict s a1 == .ends .smcAArch32) = 11 ∧
    truthTable.countP (fun s => smcVerdict s a1 == .ends (.smcAArch64 0x0000#16)) = 11 ∧
    truthTable.countP (fun s => smcVerdict s a1 == .constrained) = 6 := by decide

/-- V10, V11, V14, V20, V43 and V46, T1. -/
theorem test_truth_table_rows :
    smcVerdict (withInputs v09 .el1 .nonSecure 0 1) t1 = .ends .undefined ∧
    smcVerdict (withInputs v09 .el1 .nonSecure 1 0) t1 = .ends .hypTrap ∧
    smcVerdict (withInputs v09 .el1 .secure 0 1) t1 = .constrained ∧
    smcVerdict (withInputs v09 .el2 .nonSecure 1 1) t1 = .ends .undefined ∧
    smcVerdict (withInputs v41 .el1 .nonSecure 1 0) t1 = .ends .hypTrap ∧
    smcVerdict (withInputs v41 .el1 .secure 0 1) t1 = .ends .undefined := by decide

/-- W1, W2, W5, W6 and W7 to W9. -/
theorem test_configuration_variations :
    smcVerdict { withInputs v09 .el1 .nonSecure 1 0 with
      cfg := { v09.cfg with el2AArch32 := false } } a1 = .ends .el2TrapAArch64 ∧
    smcVerdict { withInputs v09 .el1 .nonSecure 1 0 with
      cfg := { v09.cfg with haveEL2 := false } } a1 = .ends .smcAArch32 ∧
    smcVerdict { withInputs v41 .el1 .nonSecure 1 1 with
      cfg := { v41.cfg with haveEL2 := false } } a1 = .ends .undefined ∧
    smcVerdict { withInputs v09 .el0 .secure 0 0 with
      cfg := { v09.cfg with haveEL3 := false } } a1 = .refuse .noEL3 ∧
    smcVerdict (withInputs v09 .el1 .root 1 0) a1 = .ends .smcAArch32 ∧
    smcVerdict (withInputs v09 .el1 .realm 1 1) a1 = .ends .undefined ∧
    smcVerdict (withInputs v41 .el1 .realm 1 0) a1 = .ends (.smcAArch64 0#16) := by decide

/-- X01, X06, X07, X08. -/
theorem test_wrapper_A1 :
    smcVerdict (withCond (withInputs v09 .el0 .nonSecure 0 0) false false false) a1 =
      .ends .skipped ∧
    smcVerdict v09 (.smcA1 14#4 0x001#12 0#4) = .refuse .shouldBeZero ∧
    smcVerdict (withCond v09 false false false) (.smcA1 0#4 0x001#12 0#4) =
      .refuse .shouldBeZero ∧
    smcVerdict (withCond v09 true true false) a1 = .ends .smcAArch32 := by decide

/-- R23: in one state `cond` 0 and 1 may get different answers, and T1 a third one; `imm4` plays no part. -/
theorem test_condition_by_cond :
    let s : State := { v09 with pe := { pe1 with cp := { a1 := 0b10#16, t1 := true } } }
    smcVerdict s (.smcA1 0#4 0#12 1#4) = .ends .skipped ∧
    smcVerdict s (.smcA1 1#4 0#12 1#4) = .ends .smcAArch32 ∧
    smcVerdict s (.smcA1 1#4 0#12 2#4) = .ends .smcAArch32 ∧
    smcVerdict s (.smcA1 14#4 0#12 1#4) = .ends .skipped ∧
    smcVerdict s t1 = .ends .smcAArch32 := by decide

/-- X10 to X15. -/
theorem test_wrapper_T1 :
    smcVerdict (withCond v09 true true true) t1 = .ends .smcAArch32 ∧
    smcVerdict (withCond v09 false true true) t1 = .ends .skipped ∧
    smcVerdict (withCond v09 true true false) t1 = .refuse .unpredictableIT ∧
    smcVerdict (withCond v09 false true false) t1 = .refuse .unpredictableIT ∧
    smcVerdict (withCond (withInputs v09 .el0 .nonSecure 0 0) true true false) t1 =
      .refuse .unpredictableIT ∧
    smcVerdict (withCond v09 true true false) (.smcT1 0#4 0x001#12) = .refuse .shouldBeZero := by
  decide

/-! ## Steps and short runs (programs P1, P2, P5) -/

/-- P1: one `SMC #0` at 0x8000. -/
def p1 : State := v09.withFetchWord 32 0xE1600070

theorem test_P1_reaches_monitor_mode :
    ∃ t, step p1 = .next t ∧ t.pe.el = .el3 ∧ t.pe.mode = .monitor ∧
      t.last = some { outcome := .smcAArch32, addr := 0x00008000#32 } :=
  ⟨_, rfl, rfl, rfl, rfl⟩

/-- The same for T1: the word of the opcode table placed at the pc is the next instruction run. -/
theorem test_T1_is_run_from_reset :
    ∃ t, step (State.reset.withFetchWord 32 0xF7F38000) = .next t ∧
      t.last = some { outcome := .smcAArch32, addr := 0#32 } :=
  ⟨_, rfl, rfl⟩

/-- The standard condition model, flags Z = 1 and the rest 0 (P2), or all 0 (P5). -/
def withFlags (s : State) (nzcv : BitVec 4) : State :=
  { s with
    cfg := { s.cfg with condition := .standard }
    pe := { s.pe with rest := { s.pe.rest with psr := { s.pe.rest.psr with nzcv := nzcv } } } }

/-- P2: `SMCNE #1` is skipped, `SMC #2` calls the monitor with 0x0000; `SCR.SCD` is 1 and is not read. -/
def p2 : State :=
  { withFlags v41 0b0100#4 with
    text := [(0x8000, 0x11600071#32), (0x8004, 0xE1600072#32)]
    pe := { (withFlags v41 0b0100#4).pe with scrScd := 1 } }

theorem test_P2_run :
    ∃ t, runOf 3 p2 = .raised { outcome := .smcAArch64 0x0000#16, addr := 0x00008004#32 } t :=
  ⟨_, rfl⟩

/-- P5: in User mode `SMCEQ #7` with Z = 0 is skipped, `SMC #7` is UNDEFINED. -/
def p5 : State :=
  { withInputs (withFlags v09 0b0000#4) .el0 .nonSecure 1 1 with
    text := [(0x8000, 0x01600077#32), (0x8004, 0xE1600077#32)] }

theorem test_P5_run :
    ∃ t, runOf 3 p5 = .raised { outcome := .undefined, addr := 0x00008004#32 } t :=
  ⟨_, rfl⟩

/-- A skipped T1 `SMC`, last in its IT block (P4 step 1: ITSTATE '00001000', Z = 0): the pc moves by 4, ITSTATE
becomes 0. -/
def p4 : State :=
  { withFlags v09 0b0000#4 with
    pe := { (withFlags v09 0b0000#4).pe with
      iset := .t32
      rest := { Rest.reset with psr := { Psr.reset with it := 0b00001000#8 } } } }

theorem test_P4_step1 :
    ∃ t, exec (.smcT1 3#4 0#12) p4 = .next t ∧ t.pe.pc = 0x00008004#32 ∧
      t.pe.rest.psr.it = 0#8 ∧ t.last = some { outcome := .skipped, addr := 0x00008000#32 } :=
  ⟨_, rfl, by decide, by decide, rfl⟩

/-! ## The condition table (section 6) and the assembler (section 3) -/

theorem test_condition_table :
    conditionHolds 0x8#4 0b0010#4 = true ∧ conditionHolds 0x8#4 0b0110#4 = false ∧
    conditionHolds 0x9#4 0b0110#4 = true ∧ conditionHolds 0xA#4 0b1001#4 = true ∧
    conditionHolds 0xB#4 0b1000#4 = true ∧ conditionHolds 0xC#4 0b0100#4 = false ∧
    conditionHolds 0xD#4 0b1001#4 = false ∧ conditionHolds 0xE#4 0b0000#4 = true := by decide

/-- ITSTATE '00000100' (two left) is in a block and not last; it advances to '00001000'. -/
theorem test_itstate :
    itInBlock 0b00000100#8 = true ∧ itLastInBlock 0b00000100#8 = false ∧
    itAdvance 0b00000100#8 = 0b00001000#8 ∧ itLastInBlock 0b00001000#8 = true := by decide

theorem test_assemble :
    assemble .a32 14#4 { cond := some .ne, qual := none, hash := true, imm := 3 } =
      .instr (.smcA1 1#4 0#12 3#4) ∧
    assemble .t32 0#4 { cond := some .eq, qual := some .wide, hash := false, imm := 3 } =
      .instr (.smcT1 3#4 0#12) ∧
    assemble .a32 14#4 { cond := none, qual := none, hash := true, imm := 16 } =
      .error .immOutOfRange ∧
    assemble .a32 14#4 { cond := none, qual := none, hash := true, imm := -1 } =
      .error .immOutOfRange ∧
    assemble .a32 14#4 { cond := none, qual := some .narrow, hash := true, imm := 0 } =
      .error .noNarrowEncoding := by decide

/-- "SMCLE #10" (vector A05). -/
theorem test_canonical_text :
    asmText (disassemble 14#4 (.smcA1 13#4 0#12 10#4)) =
      ['S', 'M', 'C', 'L', 'E', ' ', '#', '1', '0'] := by decide

/-! ## Witnesses: every statement's hypotheses are met together -/

theorem witness_DecodeOfEncodeIsTheInstruction :
    Instr.wf (.smcA1 0#4 0xFFF#12 15#4) = true ∧ Instr.wf (.smcT1 15#4 0xFFF#12) = true := by
  decide

theorem witness_EncodeOfDecodeIsTheWord :
    decode .a32 0xD16FFF7F#32 = .instr (.smcA1 13#4 0xFFF#12 15#4) ∧
    decode .t32 0xF7FF8FFF#32 = .instr (.smcT1 15#4 0xFFF#12) := by decide

theorem witness_NoWordIsBothEncodings :
    decode .a32 0xE1600070#32 = .instr (.smcA1 14#4 0#12 0#4) := by decide

/-- Two words that differ only in should-be-zero bits, for the fourth clause. -/
theorem witness_A1MatchAndMask :
    decode .a32 0xE16FFF70#32 = .instr (.smcA1 14#4 0xFFF#12 0#4) ∧
    (0xE16FFF70#32 : Word) &&& 0xFFF000FF#32 = 0xE1600070#32 &&& 0xFFF000FF#32 := by decide

theorem witness_T1MatchAndMask :
    decode .t32 (ofHalfwords 0xF7F9#16 0x8000#16) = .instr (.smcT1 9#4 0#12) := by decide

theorem witness_StepRunsTheDecodedInstruction :
    p1.pe.es = .aarch32 ∧ Memory.read p1.text p1.pe.pc.toNat = some 0xE1600070#32 ∧
      decode p1.pe.iset 0xE1600070#32 = .instr a1 := by decide

/-- One state for each of the four clauses: AArch64; no text; `cond == '1111'` and a changed fixed bit in A32; `o2`
set in T32. -/
theorem witness_StepStopsOutsideTheSpec :
    ({ v09 with pe := { pe1 with es := .aarch64 } } : State).pe.es = .aarch64 ∧
    (v09.pe.es = .aarch32 ∧ Memory.read v09.text v09.pe.pc.toNat = none) ∧
    (Memory.read (v09.withFetchWord 32 0xF1600070).text 0x8000 = some 0xF1600070#32 ∧
      (v09.withFetchWord 32 0xF1600070).pe.iset = .a32 ∧
      (0xF1600070#32 : Word).extractLsb 31 28 = 0b1111#4) ∧
    (0xE1600060#32 : Word) &&& 0x0FF000F0#32 ≠ 0x01600070#32 ∧
    (0xF7F0A000#32 : Word) &&& 0xFFF0F000#32 ≠ 0xF7F08000#32 := by decide

theorem witness_StepStopsOutsideTheSpec_T32 :
    p4.pe.es = .aarch32 ∧ p4.pe.iset = .t32 ∧
    Memory.read ({ p4 with text := [(0x8000, 0xF7F0A000#32)] } : State).text p4.pe.pc.toNat =
      some 0xF7F0A000#32 := by decide

theorem witness_PlacedWordIsRunNext :
    decodeTableWord 32 0xE1600070 = some a1 ∧ decodeTableWord 32 0xF7F08000 = some t1 ∧
    (0 : Nat) ≠ v09.pe.pc.toNat := by decide

/-- User mode, where a passed condition would make it UNDEFINED, and T1 last in its block. -/
theorem witness_FailedConditionDoesNothing :
    (admitted a1 (withCond (withInputs v09 .el0 .nonSecure 1 1) false false false) = true ∧
     conditionPassed (withCond (withInputs v09 .el0 .nonSecure 1 1) false false false) a1 = false) ∧
    (admitted t1 (withCond v09 false true true) = true ∧
     conditionPassed (withCond v09 false true true) t1 = false) := by decide

/-- Skipped, of both encodings. (Which of Nop and Undefined a draw gives is a free value, so no test can show a Nop.) -/
theorem witness_SkippedAndNopGoOnAtTheNextInstruction :
    (∃ t r, exec a1 (withCond v09 false false false) = .next t ∧ t.last = some r ∧
      (r.outcome = .skipped ∨ r.outcome = .nop)) ∧
    (∃ t r, exec t1 (withCond v09 false false false) = .next t ∧ t.last = some r ∧
      (r.outcome = .skipped ∨ r.outcome = .nop)) :=
  ⟨⟨_, _, rfl, rfl, .inl rfl⟩, ⟨_, _, rfl, rfl, .inl rfl⟩⟩

theorem witness_UserModeIsUndefined :
    (operationRuns a1 (withInputs v09 .el0 .secure 1 1) = true ∧
      (withInputs v09 .el0 .secure 1 1).pe.el = .el0) ∧
    operationRuns t1 (withInputs v41 .el0 .nonSecure 1 0) = true := by decide

/-- EL2 using AArch32 and using AArch64, the disable bit set. -/
theorem witness_NonSecureEL1IsTrappedToEL2 :
    (operationRuns a1 (withInputs v09 .el1 .nonSecure 1 1) = true ∧
      (withInputs v09 .el1 .nonSecure 1 1).cfg.haveEL2 = true ∧
      (withInputs v09 .el1 .nonSecure 1 1).pe.hcrTsc = 1#1 ∧
      (withInputs v09 .el1 .nonSecure 1 1).cfg.el2AArch32 = true) ∧
    (operationRuns t1 (withInputs v41 .el1 .nonSecure 1 1) = true) ∧
    operationRuns t1 { withInputs v41 .el1 .nonSecure 1 1 with
      cfg := { v41.cfg with el2AArch32 := false } } = true := by decide

theorem witness_NonSecureEL1IsTrappedToEL2_converse :
    ∃ t r, exec a1 (withInputs v09 .el1 .nonSecure 1 1) = .next t ∧ t.last = some r ∧
      (r.outcome = .hypTrap ∨ r.outcome = .el2TrapAArch64) :=
  ⟨_, _, rfl, rfl, .inl rfl⟩

theorem witness_SmdMakesItUndefined :
    (reachesDisableTest a1 (withInputs v41 .el1 .secure 1 1) = true ∧
      (withInputs v41 .el1 .secure 1 1).cfg.el3AArch32 = false ∧
      (withInputs v41 .el1 .secure 1 1).pe.scrEl3Smd = 1#1) ∧
    reachesDisableTest t1 (withInputs v41 .el2 .nonSecure 1 1) = true := by decide

theorem witness_SecureScdIsNopOrUndefined :
    (operationRuns a1 (withInputs v09 .el3 .secure 1 1) = true ∧
      (withInputs v09 .el3 .secure 1 1).pe.el ≠ .el0 ∧
      (withInputs v09 .el3 .secure 1 1).cfg.el3AArch32 = true ∧
      (withInputs v09 .el3 .secure 1 1).pe.scrScd = 1#1 ∧
      (withInputs v09 .el3 .secure 1 1).pe.ss = .secure) ∧
    operationRuns t1 (withInputs v09 .el1 .secure 0 1) = true := by decide

/-- Non-secure EL1 untrapped, and Hyp mode with `HCR.TSC` 1. -/
theorem witness_NonSecureScdIsUndefined :
    (reachesDisableTest a1 (withInputs v09 .el1 .nonSecure 0 1) = true ∧
      (withInputs v09 .el1 .nonSecure 0 1).cfg.el3AArch32 = true ∧
      (withInputs v09 .el1 .nonSecure 0 1).pe.scrScd = 1#1 ∧
      (withInputs v09 .el1 .nonSecure 0 1).pe.ss ≠ .secure) ∧
    reachesDisableTest t1 (withInputs v09 .el2 .nonSecure 1 1) = true := by decide

/-- EL1 Non-secure, and EL3 Secure (a handler that executes `SMC`, R101). -/
theorem witness_SecureMonitorCallIsTakenToMonitorMode :
    (reachesDisableTest a1 v09 = true ∧ v09.cfg.el3AArch32 = true ∧ v09.pe.scrScd = 0#1) ∧
    reachesDisableTest t1 (withInputs v09 .el3 .secure 1 0) = true := by decide

theorem witness_SecureMonitorIsCalledWithZeros :
    (reachesDisableTest a1 v41 = true ∧ v41.cfg.el3AArch32 = false ∧ v41.pe.scrEl3Smd = 0#1) ∧
    reachesDisableTest (.smcT1 15#4 0#12) v41 = true := by decide

theorem witness_ImmediatePlaysNoPart :
    ∃ t, exec (.smcA1 14#4 0#12 15#4) v41 = .next t ∧
      t.last = some { outcome := .smcAArch64 0x0000#16, addr := 0x00008000#32 } :=
  ⟨_, rfl, rfl⟩

theorem witness_UndefinedInExactlyFourSituations :
    admitted a1 (withInputs v09 .el0 .nonSecure 0 0) = true ∧
    ∃ t, exec a1 (withInputs v09 .el0 .nonSecure 0 0) = .next t ∧
      t.last = some { outcome := .undefined, addr := 0x00008000#32 } :=
  ⟨by decide, _, rfl, rfl⟩

theorem witness_SecureMonitorCallExactlyWhenEnabled :
    (admitted a1 v09 = true ∧ ∃ t, exec a1 v09 = .next t ∧
      t.last = some { outcome := .smcAArch32, addr := 0x00008000#32 }) ∧
    (admitted t1 v41 = true ∧ ∃ t, exec t1 v41 = .next t ∧
      t.last = some { outcome := .smcAArch64 0#16, addr := 0x00008000#32 }) :=
  ⟨⟨by decide, _, rfl, rfl⟩, ⟨by decide, _, rfl, rfl⟩⟩

theorem witness_ChecksHaveTheirPriority : v09.cfg.sbzPolicy = .refuse := by decide

theorem witness_T1InsideAnItBlockIsRefused :
    inITBlock (withCond v09 false true false) = true ∧
    lastInITBlock (withCond v09 false true false) = false ∧
    exec t1 (withCond v09 false true false) = .refused .unpredictableIT :=
  ⟨by decide, by decide, rfl⟩

/-- One state for each value of SBZ_policy, the lowest and the highest "(0)" bit. -/
theorem witness_ShouldBeZeroBitsFollowThePolicy :
    (Instr.sbz (.smcA1 14#4 0x001#12 0#4) ≠ 0#12 ∧ v09.cfg.sbzPolicy = .refuse) ∧
    ({ v09 with cfg := { v09.cfg with sbzPolicy := .ignore } } : State).cfg.sbzPolicy = .ignore ∧
    (Instr.sbz (.smcT1 0#4 0x800#12) ≠ 0#12 ∧
      ({ v09 with cfg := { v09.cfg with sbzPolicy := .undefined } } : State).cfg.sbzPolicy =
        .undefined) := by decide

theorem witness_AbsentLevelsRefuseOrReadZero :
    (admitted a1 { v09 with cfg := { v09.cfg with haveEL3 := false } } = true ∧
      conditionPassed { v09 with cfg := { v09.cfg with haveEL3 := false } } a1 = true) ∧
    ({ v09 with cfg := { v09.cfg with haveEL2 := false } } : State).cfg.haveEL2 = false := by
  decide

theorem witness_BitsThatAreNotReadDecideNothing :
    v41.cfg.el3AArch32 = false ∧ v09.cfg.el3AArch32 = true := by decide

/-- Two states that agree on every listed input and differ elsewhere (mode, pc, `rest`). -/
theorem witness_DecisionReadsOnlyTheListedInputs :
    let s' : State := { v09 with
      pe := { pe1 with
        mode := .system
        pc := 0#32
        rest := { Rest.reset with other := 7, mvbar := 0x20#32 } } }
    s' ≠ v09 ∧ s'.cfg = v09.cfg ∧ conditionPassed s' a1 = conditionPassed v09 a1 ∧
    inITBlock s' = inITBlock v09 ∧ lastInITBlock s' = lastInITBlock v09 ∧
    s'.pe.el = v09.pe.el ∧ s'.pe.ss = v09.pe.ss ∧ s'.pe.hcrTsc = v09.pe.hcrTsc ∧
    s'.pe.scrScd = v09.pe.scrScd ∧ s'.pe.scrEl3Smd = v09.pe.scrEl3Smd := by decide

theorem witness_StepKeepsConfigurationAndText : ∃ t, step p1 = .next t := ⟨_, rfl⟩

/-- An execution that draws, and one that does not. -/
theorem witness_DrawsAreCountedOnlyWhereMade :
    (admitted a1 (withInputs v09 .el1 .secure 0 1) = true ∧
      ∃ t, exec a1 (withInputs v09 .el1 .secure 0 1) = .next t ∧ t.draws = 1) ∧
    (admitted t1 v09 = true ∧ ∃ t, exec t1 v09 = .next t ∧ t.draws = 0) :=
  ⟨⟨by decide, _, rfl, rfl⟩, ⟨by decide, _, rfl, rfl⟩⟩

theorem witness_EveryStepKeepsTheInvariant : p1.Inv ∧ ∃ t, step p1 = .next t :=
  ⟨⟨by decide, fun r h => by cases h⟩, _, rfl⟩

/-- A run still going after a skipped instruction, one at the end of the text, and one refused. -/
theorem witness_RunWithoutExceptionOnlyMovesThePc :
    (∃ t, runOf 1 p2 = .running t) ∧ (∃ t, runOf 3 v09 = .textEnded t) ∧
    (∃ r t, runOf 3 (v09.withFetchWord 32 0xF1600070) = .refused r t) :=
  ⟨⟨_, rfl⟩, ⟨_, rfl⟩, ⟨_, _, rfl⟩⟩

theorem witness_RunEndsAtTheFirstException : ∃ r t, runOf 3 p2 = .raised r t := ⟨_, _, rfl⟩

/-- Each of the two AArch64 entries. -/
theorem witness_AArch64EntryLeavesTheSpec :
    (∃ t r, step (v41.withFetchWord 32 0xE1600070) = .next t ∧ t.last = some r ∧
      ∃ imm16, r.outcome = .smcAArch64 imm16) ∧
    (∃ t r, step (({ withInputs v41 .el1 .nonSecure 1 0 with
        cfg := { v41.cfg with el2AArch32 := false } } : State).withFetchWord 32 0xE1600070) =
          .next t ∧ t.last = some r ∧ r.outcome = .el2TrapAArch64) :=
  ⟨⟨_, _, rfl, rfl, _, rfl⟩, ⟨_, _, rfl, rfl, rfl⟩⟩

/-- The clauses in order: the standard model; outside a block; inside one; a skipped T1 in T32. -/
theorem witness_StandardConditionModel :
    p5.cfg.condition = .standard ∧ p5.pe.rest.psr.it = 0#8 ∧
    (p4.cfg.condition = .standard ∧ inITBlock p4 = true ∧ p4.pe.iset = .t32 ∧
      conditionPassed p4 (.smcT1 3#4 0#12) = false) := by decide

theorem witness_StandardConditionModel_skip : ∃ t, exec (.smcT1 3#4 0#12) p4 = .next t :=
  ⟨_, rfl⟩

/-- V09 and V11 under the sketch entry model. -/
def sketched (s : State) : State := { s with cfg := { s.cfg with entry := .sketch } }

theorem witness_SketchOfTheSecureMonitorCall :
    reachesDisableTest a1 (sketched v09) = true ∧ (sketched v09).cfg.el3AArch32 = true ∧
    (sketched v09).pe.scrScd = 0#1 ∧ (sketched v09).cfg.entry = .sketch ∧
    reachesDisableTest t1 (sketched v09) = true := by decide

theorem witness_SketchOfTheHypTrap :
    let s := sketched (withInputs v09 .el1 .nonSecure 1 0)
    operationRuns a1 s = true ∧ trapApplies s = true ∧ s.cfg.el2AArch32 = true ∧
    s.cfg.el3AArch32 = true ∧ s.cfg.entry = .sketch := by decide

/-- Non-secure, from a Non-secure EL1 mode with `SCR.SCD` 1, `VBAR` as the base. -/
theorem witness_SketchOfTheUndefinedInstruction :
    let s := sketched (withInputs v09 .el1 .nonSecure 0 1)
    (∃ t, exec a1 s = .next t ∧
      t.last = some { outcome := .undefined, addr := s.pe.pc }) ∧
    s.cfg.entry = .sketch ∧ s.cfg.el3AArch32 = true ∧ s.pe.mode ≠ .hyp ∧
    (s.pe.mode = .user ∧ s.pe.ss = .nonSecure → s.pe.rest.hcrTge = 0#1) ∧
    s.pe.ss = .nonSecure :=
  ⟨⟨_, rfl, rfl⟩, by decide⟩

/-- The sketch entry model in User mode at EL0, with `HCR.TGE` and the SCTLR bits given. -/
def sketchedUser (ss : SecurityState) (tge : BitVec 1) (sctlr : Sctlr) : State :=
  let s := sketched (withInputs v09 .el0 ss 0 0)
  { s with pe := { s.pe with
      mode := .user
      rest := { s.pe.rest with
        hcrTge := tge, sctlrS := sctlr, sctlrNs := sctlr, hvbar := 0x1000#32 } } }

/-- Secure, high vectors, the handler in T32 and big-endian: every bit G9 reads from SCTLR is 1. -/
theorem witness_SketchOfTheUndefinedInstruction_secure :
    let s := sketchedUser .secure 0 { te := 1, ee := 1, v := 1 }
    (∃ t, exec t1 s = .next t ∧ t.pe.pc = 0xFFFF0004#32 ∧ t.pe.iset = .t32 ∧
      t.pe.rest.psr.e = 1#1 ∧ t.last = some { outcome := .undefined, addr := s.pe.pc }) ∧
    s.cfg.entry = .sketch ∧ s.cfg.el3AArch32 = true ∧ s.pe.mode ≠ .hyp ∧
    s.pe.ss = .secure ∧ s.pe.rest.sctlrS.v = 1#1 :=
  ⟨⟨_, rfl, rfl, rfl, rfl, rfl⟩, by decide⟩

/-- From Non-secure User mode with `HCR.TGE` 1, to HVBAR + 0x14. -/
theorem witness_SketchOfTheUndefinedInstructionInHypMode :
    let s := sketchedUser .nonSecure 1 Sctlr.reset
    (∃ t, exec a1 s = .next t ∧ t.pe.pc = 0x1014#32 ∧ t.pe.rest.elrHyp = 0x8000#32 ∧
      t.last = some { outcome := .undefined, addr := s.pe.pc }) ∧
    s.cfg.entry = .sketch ∧ s.cfg.el3AArch32 = true ∧ s.pe.mode = .user ∧
    s.pe.ss = .nonSecure ∧ s.cfg.haveEL2 = true ∧ s.pe.rest.hcrTge = 1#1 :=
  ⟨⟨_, rfl, rfl, rfl, rfl⟩, by decide⟩

/-- From Hyp mode (EL2, `SCR.SCD` 1), to HVBAR + 0x04. -/
def sketchedHyp : State :=
  let s := sketched (withInputs v09 .el2 .nonSecure 0 1)
  { s with pe := { s.pe with mode := .hyp, rest := { s.pe.rest with hvbar := 0x1000#32 } } }

theorem witness_SketchOfTheUndefinedInstructionInHypMode_fromHyp :
    (∃ t, exec t1 sketchedHyp = .next t ∧ t.pe.pc = 0x1004#32 ∧
      t.last = some { outcome := .undefined, addr := sketchedHyp.pe.pc }) ∧
    sketchedHyp.cfg.entry = .sketch ∧ sketchedHyp.cfg.el3AArch32 = true ∧
    sketchedHyp.pe.mode = .hyp :=
  ⟨⟨_, rfl, rfl, rfl⟩, by decide⟩

theorem witness_AssembleOfDisassembleIsTheInstruction :
    Instr.canonical (.smcA1 13#4 0#12 15#4) = true ∧ Instr.canonical (.smcT1 15#4 0#12) = true ∧
    (14#4 : BitVec 4) ≠ 0b1111#4 := by decide

/-- One statement for each clause, at the boundary: `.N`; 15 in A32; 15 in T32, whose `<c>` is the position's; 16 and -1. -/
theorem witness_AssemblerAcceptsZeroToFifteen :
    let a : AsmSmc := { cond := none, qual := none, hash := true, imm := 15 }
    ({ a with qual := some .narrow } : AsmSmc).qual = some .narrow ∧
    a.qual ≠ some .narrow ∧ assemble .a32 14#4 a = .instr (.smcA1 14#4 0#12 15#4) ∧
    assemble .t32 14#4 a = .instr (.smcT1 15#4 0#12) ∧
    assemble .t32 1#4 a = .error .conditionMismatch ∧
    (15 : Int) < 16 ∧ (-1 : Int) < 0 := by decide

/-- The third clause's hypothesis. -/
theorem witness_ConditionResultDependsOnCondAlone : v09.cfg.condition = .given := rfl

end Sys2Proof.Tests
end

section
/-! SUPPORT. The facts about the decision for one `SMC` that the statements of 00_scope.md need: what each wrapper test
does, which inputs the operation reads, and when the operation reaches `ConstrainUnpredictable`. -/

namespace Sys2Proof.Machine

open Sys2Proof

/-! ## From the verdict to the execution -/

theorem exec_of_smcVerdict_refuse {i : Instr} {s : State} {r : Refusal}
    (h : smcVerdict s i = .refuse r) : exec i s = .refused r := by
  rw [exec_eq_settle, h, settle]

theorem exec_of_smcVerdict_ends {i : Instr} {s : State} {o : SmcOutcome}
    (h : smcVerdict s i = .ends o) : exec i s = .next (conclude o s) := by
  rw [exec_eq_settle, h, settle]

/-- Two instructions that are decided alike execute alike. -/
theorem exec_eq_of_smcVerdict_eq {i j : Instr} {s : State}
    (h : smcVerdict s i = smcVerdict s j) : exec i s = exec j s := by
  rw [exec_eq_settle, exec_eq_settle, h]

/-- What a step that raises the Undefined Instruction exception leaves behind (R91, R97). -/
theorem raises_undefined_conclude (s : State) :
    Raises s .undefined (takeUndefined s.cfg s.pe s.pe.pc 4) (conclude .undefined s) :=
  { pe := rfl, last := rfl, cfg := rfl, text := rfl }

/-- Only the verdict `constrained` draws a choice (R10, R77). -/
theorem draws_of_settle_next {v : Verdict} {s t : State} (h : settle v s = .next t) :
    t.draws = if v = .constrained then s.draws + 1 else s.draws := by
  obtain ⟨o, rfl, rfl⟩ | ⟨rfl, rfl⟩ := settle_next_cases h
  · simp
  · simp

/-! ## The wrapper tests (R70, R71) -/

theorem admitted_iff (i : Instr) (s : State) :
    admitted i s = true ↔ i.sbz = 0#12 ∧ itAllows s i = true := by
  simp [admitted]

/-- The should-be-zero test refuses or takes the exception whatever the later tests say, in either encoding. -/
theorem smcVerdict_of_sbz_refuse {i : Instr} {s : State} (hz : i.sbz ≠ 0#12)
    (hp : s.cfg.sbzPolicy = .refuse) : smcVerdict s i = .refuse .shouldBeZero := by
  cases i with
  | smcA1 c z n => simp [smcVerdict, sbzTest, hp, show z ≠ 0#12 from hz]
  | smcT1 n z => simp [smcVerdict, sbzTest, hp, show z ≠ 0#12 from hz]

theorem smcVerdict_of_sbz_undefined {i : Instr} {s : State} (hz : i.sbz ≠ 0#12)
    (hp : s.cfg.sbzPolicy = .undefined) : smcVerdict s i = .ends .undefined := by
  cases i with
  | smcA1 c z n => simp [smcVerdict, sbzTest, hp, show z ≠ 0#12 from hz]
  | smcT1 n z => simp [smcVerdict, sbzTest, hp, show z ≠ 0#12 from hz]

/-- Under SBZ_policy `ignore` the test lets everything pass. -/
theorem sbzTest_of_ignore {s : State} (hp : s.cfg.sbzPolicy = .ignore) (z : BitVec 12)
    (v : Verdict) : sbzTest s z v = v := by
  simp [sbzTest, hp]

/-- An admitted instruction goes on to its condition. -/
theorem smcVerdict_of_admitted {i : Instr} {s : State} (h : admitted i s = true) :
    smcVerdict s i = underCondition s i := by
  obtain ⟨hz, hit⟩ := (admitted_iff i s).1 h
  cases i with
  | smcA1 c z n =>
    obtain rfl : z = 0#12 := hz
    simp [smcVerdict, sbzTest]
  | smcT1 n z =>
    obtain rfl : z = 0#12 := hz
    have hpos : (inITBlock s && !lastInITBlock s) = false := by
      simpa only [itAllows, Bool.not_eq_true'] using hit
    simp only [smcVerdict, sbzTest, itTest, hpos, if_true, Bool.false_eq_true, if_false]

/-- The condition of an A1 instruction reads `cond` alone (R23). -/
theorem conditionPassed_smcA1 (s : State) (c : BitVec 4) (z z' : BitVec 12) (n n' : BitVec 4) :
    conditionPassed s (.smcA1 c z n) = conditionPassed s (.smcA1 c z' n') := rfl

/-- The condition of a T1 instruction reads nothing of the instruction (R23). -/
theorem conditionPassed_smcT1 (s : State) (n n' : BitVec 4) (z z' : BitVec 12) :
    conditionPassed s (.smcT1 n z) = conditionPassed s (.smcT1 n' z') := rfl

theorem underCondition_of_passed {s : State} {i : Instr} (h : conditionPassed s i = true) :
    underCondition s i = smcCommon s := by
  simp [underCondition, h]

theorem underCondition_of_failed {s : State} {i : Instr} (h : conditionPassed s i = false) :
    underCondition s i = .ends .skipped := by
  simp [underCondition, h]

/-- The wrapper reads of the instruction only the condition's answer: two instructions with the same answer go on alike. -/
theorem underCondition_congr {s : State} {i j : Instr}
    (h : conditionPassed s i = conditionPassed s j) : underCondition s i = underCondition s j := by
  simp only [underCondition, h]

/-! ## The operation (R80) -/

theorem inUserMode_iff (s : State) : inUserMode s = true ↔ s.pe.el = .el0 := by
  simp [inUserMode]

theorem smcCommon_of_no_el3 {s : State} (h : s.cfg.haveEL3 = false) :
    smcCommon s = .refuse .noEL3 := by
  simp [smcCommon, h]

/-- EL3 not implemented: an admitted instruction whose condition passes is refused (92 D10). -/
theorem exec_of_no_el3 {i : Instr} {s : State} (ha : admitted i s = true)
    (hc : conditionPassed s i = true) (h3 : s.cfg.haveEL3 = false) :
    exec i s = .refused .noEL3 :=
  exec_of_smcVerdict_refuse <| by
    rw [smcVerdict_of_admitted ha, underCondition_of_passed hc, smcCommon_of_no_el3 h3]

/-- The three ways the operation decides: no EL3, the check of R75, the disable test. -/
theorem smcCommon_cases (s : State) :
    (smcCommon s = .refuse .noEL3 ∧ s.cfg.haveEL3 = false) ∨
    (∃ o, smcCommon s = .ends o ∧ s.cfg.haveEL3 = true ∧ checkForSMCUndefOrTrap s = some o) ∨
    (smcCommon s = disableOrTake s ∧ s.cfg.haveEL3 = true ∧ checkForSMCUndefOrTrap s = none) := by
  cases h3 : s.cfg.haveEL3 with
  | false => exact .inl ⟨smcCommon_of_no_el3 h3, rfl⟩
  | true => cases hc : checkForSMCUndefOrTrap s <;> simp [smcCommon, h3, hc]

/-- Without EL2 the stored value of `HCR.TSC` is not read (92 D11). -/
theorem hcrTscRead_of_no_el2 {s : State} (h : s.cfg.haveEL2 = false) : hcrTscRead s = 0#1 := by
  simp [hcrTscRead, h]

/-- The trap row of R80 asks for `HCR.TSC` to read as 1. -/
theorem trapApplies_of_no_el2 {s : State} (h : s.cfg.haveEL2 = false) : trapApplies s = false := by
  simp [trapApplies, hcrTscRead_of_no_el2 h]

/-- The trap row asks for the Non-secure state. -/
theorem trapApplies_of_secure {s : State} (h : s.pe.ss = .secure) : trapApplies s = false := by
  simp [trapApplies, inNonSecureEL1, h]

theorem checkForSMCUndefOrTrap_eq_none_iff (s : State) :
    checkForSMCUndefOrTrap s = none ↔ s.pe.el ≠ .el0 ∧ trapApplies s = false := by
  rw [Ne, ← inUserMode_iff]
  obtain ⟨h, hu⟩ | ⟨h, hu, ht, -⟩ | ⟨h, hu, ht, -⟩ | ⟨h, hu, ht⟩ :=
    checkForSMCUndefOrTrap_cases s
  · simp [h, hu]
  · simp [h, ht]
  · simp [h, ht]
  · simp [h, hu, ht]

theorem disableOrTake_ne_trap (s : State) :
    disableOrTake s ≠ .ends .hypTrap ∧ disableOrTake s ≠ .ends .el2TrapAArch64 := by
  obtain ⟨h, -⟩ | ⟨h, -⟩ | ⟨h, -⟩ | ⟨h, -⟩ | ⟨h, -⟩ := disableOrTake_cases s <;> simp [h]

/-- Outside the trap row nothing is trapped to EL2, in either of its two forms (R93, 92 D17). -/
theorem smcCommon_ne_trap {s : State} (ht : trapApplies s = false) :
    smcCommon s ≠ .ends .hypTrap ∧ smcCommon s ≠ .ends .el2TrapAArch64 := by
  obtain ⟨h, -⟩ | ⟨o, h, -, hc⟩ | ⟨h, -, -⟩ := smcCommon_cases s
  · simp [h]
  · obtain ⟨hu, -⟩ | ⟨-, -, ht', -⟩ | ⟨-, -, ht', -⟩ | ⟨hn, -⟩ := checkForSMCUndefOrTrap_cases s
    · obtain rfl : o = .undefined := Option.some.inj (hc.symm.trans hu)
      simp [h]
    · simp [ht] at ht'
    · simp [ht] at ht'
    · simp [hc] at hn
  · rw [h]; exact disableOrTake_ne_trap s

theorem smcVerdict_ne_trap (i : Instr) {s : State} (ht : trapApplies s = false) :
    smcVerdict s i ≠ .ends .hypTrap ∧ smcVerdict s i ≠ .ends .el2TrapAArch64 := by
  obtain ⟨h, -⟩ | ⟨h, -⟩ | ⟨-, ⟨h, -⟩ | ⟨h, -⟩ | ⟨h, -⟩⟩ := smcVerdict_cases s i
  · simp [h]
  · simp [h]
  · simp [h]
  · simp [h]
  · rw [h]; exact smcCommon_ne_trap ht

/-- Row 5 of R80: the disable test reaches `ConstrainUnpredictable`. -/
theorem disableOrTake_eq_constrained_iff (s : State) :
    disableOrTake s = .constrained ↔
      s.cfg.el3AArch32 = true ∧ s.pe.scrScd = 1#1 ∧ s.pe.ss = .secure := by
  obtain ⟨h, h3, -⟩ | ⟨h, h3, -⟩ | ⟨h, h3, hd, hs⟩ | ⟨h, -, -, hs⟩ | ⟨h, -, hd⟩ :=
    disableOrTake_cases s
  · simp [h, h3]
  · simp [h, h3]
  · simp [h, h3, hd, hs]
  · simp [h, hs]
  · simp [h, hd]

/-- The whole operation reaches `ConstrainUnpredictable`; the trap row needs no mention, since it asks for the
Non-secure state. -/
theorem smcCommon_eq_constrained_iff (s : State) :
    smcCommon s = .constrained ↔
      s.cfg.haveEL3 = true ∧ s.pe.el ≠ .el0 ∧ s.cfg.el3AArch32 = true ∧ s.pe.scrScd = 1#1 ∧
        s.pe.ss = .secure := by
  obtain ⟨h, h3⟩ | ⟨o, h, -, hc⟩ | ⟨h, h3, hc⟩ := smcCommon_cases s
  · simp [h, h3]
  · have hnot : ¬(s.pe.el ≠ .el0 ∧ trapApplies s = false) := by
      rw [← checkForSMCUndefOrTrap_eq_none_iff, hc]
      exact Option.some_ne_none o
    constructor
    · simp [h]
    · rintro ⟨-, hel, -, -, hs⟩
      exact absurd ⟨hel, trapApplies_of_secure hs⟩ hnot
  · obtain ⟨hel, -⟩ := (checkForSMCUndefOrTrap_eq_none_iff s).1 hc
    simp [h, h3, hel, disableOrTake_eq_constrained_iff]

theorem underCondition_eq_constrained_iff (s : State) (i : Instr) :
    underCondition s i = .constrained ↔
      conditionPassed s i = true ∧ s.cfg.haveEL3 = true ∧ s.pe.el ≠ .el0 ∧
        s.cfg.el3AArch32 = true ∧ s.pe.scrScd = 1#1 ∧ s.pe.ss = .secure := by
  rw [← smcCommon_eq_constrained_iff]
  cases hc : conditionPassed s i with
  | false => simp [underCondition_of_failed hc]
  | true => simp [underCondition_of_passed hc]

/-! ## The inputs the decision reads (R20) -/

/-- The operation reads `HCR.TSC` only as `hcrTscRead` gives it. -/
theorem smcCommon_congr {s s' : State} (hcfg : s'.cfg = s.cfg) (hel : s'.pe.el = s.pe.el)
    (hss : s'.pe.ss = s.pe.ss) (htsc : hcrTscRead s' = hcrTscRead s)
    (hscd : s'.pe.scrScd = s.pe.scrScd) (hsmd : s'.pe.scrEl3Smd = s.pe.scrEl3Smd) :
    smcCommon s' = smcCommon s := by
  have huser : inUserMode s' = inUserMode s := by rw [inUserMode, hel, inUserMode]
  have hns : inNonSecureEL1 s' = inNonSecureEL1 s := by
    rw [inNonSecureEL1, hel, hss, inNonSecureEL1]
  have hcheck : checkForSMCUndefOrTrap s' = checkForSMCUndefOrTrap s := by
    rw [checkForSMCUndefOrTrap, huser, hns, htsc, hcfg, checkForSMCUndefOrTrap]
  have htake : disableOrTake s' = disableOrTake s := by
    simp only [disableOrTake, hcfg, hss, hscd, hsmd]
  simp only [smcCommon, hcfg, hcheck, htake]

/-- Outside the operation the decision reads the configuration, the condition's answer and the IT-block position. -/
theorem smcVerdict_congr {s s' : State} (i : Instr) (hcfg : s'.cfg = s.cfg)
    (hcond : conditionPassed s' i = conditionPassed s i) (hin : inITBlock s' = inITBlock s)
    (hlast : lastInITBlock s' = lastInITBlock s) (hcommon : smcCommon s' = smcCommon s) :
    smcVerdict s' i = smcVerdict s i := by
  have hunder : underCondition s' i = underCondition s i := by
    simp only [underCondition, hcond, hcommon]
  cases i with
  | smcA1 c z n => simp only [smcVerdict, sbzTest, hcfg, hunder]
  | smcT1 n z => simp only [smcVerdict, sbzTest, itTest, hcfg, hin, hlast, hunder]

end Sys2Proof.Machine
end

section
/-! The statements of 00_scope.md: the should-be-zero policy, the absent Exception levels, the draws of CU_SMD. -/

namespace Sys2Proof.Proofs

open Sys2Proof Sys2Proof.Machine

/-- Settles O27: the should-be-zero test is the first one, so its policy alone decides; under `ignore` nothing that is
decided later reads the "(0)" bits. -/
theorem shouldBeZeroBitsFollowThePolicy : Obligations.ShouldBeZeroBitsFollowThePolicy := by
  refine ⟨fun i s hz hp => ?refuse, fun c z n s hp => ?ignoreA1, fun n z s hp => ?ignoreT1,
    fun i s hz hp => ?undefined⟩
  case refuse => exact exec_of_smcVerdict_refuse (smcVerdict_of_sbz_refuse hz hp)
  case ignoreA1 =>
    apply exec_eq_of_smcVerdict_eq
    simp only [smcVerdict, sbzTest_of_ignore hp]
    exact underCondition_congr (conditionPassed_smcA1 s c z 0#12 n n)
  case ignoreT1 =>
    apply exec_eq_of_smcVerdict_eq
    simp only [smcVerdict, sbzTest_of_ignore hp]
    rw [underCondition_congr (conditionPassed_smcT1 s n n z 0#12)]
  case undefined =>
    exact ⟨conclude .undefined s, exec_of_smcVerdict_ends (smcVerdict_of_sbz_undefined hz hp),
      conclude_draws _ s, raises_undefined_conclude s⟩

/-- Settles O28: without EL3 the operation refuses at once; without EL2 `HCR.TSC` reads as 0, so the trap row never
holds and the stored bit is no input of the decision. -/
theorem absentLevelsRefuseOrReadZero : Obligations.AbsentLevelsRefuseOrReadZero := by
  refine ⟨fun i s => exec_of_no_el3, fun i s h2 => smcVerdict_ne_trap i (trapApplies_of_no_el2 h2),
    fun i s b h2 => ?_⟩
  have htsc : hcrTscRead { s with pe := { s.pe with hcrTsc := b } } = hcrTscRead s :=
    Eq.trans (hcrTscRead_of_no_el2 h2) (hcrTscRead_of_no_el2 h2).symm
  exact smcVerdict_congr i rfl rfl rfl rfl (smcCommon_congr rfl rfl rfl htsc rfl rfl)

/-- Settles O32: a draw is made exactly by the verdict `constrained`. The statement does not name EL3: an execution
that passes its condition and completes has it. -/
theorem drawsAreCountedOnlyWhereMade : Obligations.DrawsAreCountedOnlyWhereMade := by
  intro i s t ha h
  have hel3 : conditionPassed s i = true → s.cfg.haveEL3 = true := by
    intro hc
    by_contra h3
    rw [exec_of_no_el3 ha hc (Bool.not_eq_true _ ▸ h3)] at h
    cases h
  rw [exec_eq_settle, smcVerdict_of_admitted ha] at h
  rw [draws_of_settle_next h]
  simp only [underCondition_eq_constrained_iff]
  exact if_congr ⟨fun ⟨hc, _, hrest⟩ => ⟨hc, hrest⟩, fun ⟨hc, hrest⟩ => ⟨hc, hel3 hc, hrest⟩⟩
    rfl rfl

end Sys2Proof.Proofs
end

section
/-! SUPPORT. The facts about the state and its inputs that the statements of 10_state.md need: the two ways the fetch
sends a step, what a settled verdict keeps, which inputs the decision reads, and the standard condition model. -/

namespace Sys2Proof.Machine

open Sys2Proof

/-! ## The step -/

/-- In AArch32 a step runs what the fetched bits decode to (R21, R41). -/
theorem step_of_decode {s : State} {w : Word} {i : Instr} (hes : s.pe.es = .aarch32)
    (hw : fetch s = some w) (hi : decode s.pe.iset w = .instr i) : step s = exec i s := by
  simp only [step, hes, hw, hi]

/-- In AArch32 a step that finds no instruction ends the run (R118). -/
theorem step_of_fetch_none {s : State} (hes : s.pe.es = .aarch32) (hw : fetch s = none) :
    step s = .fault .endOfText := by
  simp only [step, hes, hw]

/-- However an execution ends, the configuration and the text outlive it, and it is reported at its own address. -/
theorem settle_next_frame {v : Verdict} {s t : State} (h : settle v s = .next t) :
    t.cfg = s.cfg ∧ t.text = s.text ∧ ∃ o, t.last = some { outcome := o, addr := s.pe.pc } := by
  obtain ⟨o, -, rfl⟩ | ⟨-, rfl⟩ := settle_next_cases h
  · exact ⟨rfl, rfl, o, rfl⟩
  · exact ⟨rfl, rfl, _, rfl⟩

/-- A step keeps what its execution keeps. -/
theorem step_next_frame {s t : State} (h : step s = .next t) :
    t.cfg = s.cfg ∧ t.text = s.text ∧ ∃ o, t.last = some { outcome := o, addr := s.pe.pc } := by
  obtain ⟨w, i, -, -, -, hexec⟩ := step_next_cases h
  exact settle_next_frame (exec_eq_settle i s ▸ hexec)

/-- With every "(0)" bit zero, an execution that completes although its condition failed had its IT position allowed
and was skipped (R71, R74). -/
theorem exec_next_of_failed {i : Instr} {s t : State} (hz : i.sbz = 0#12)
    (hc : conditionPassed s i = false) (h : exec i s = .next t) :
    itAllows s i = true ∧ t = conclude .skipped s := by
  obtain ⟨-, hz', -⟩ | ⟨-, hz', -⟩ | ⟨-, ⟨hv, -⟩ | ⟨hv, hit, -⟩ | ⟨-, -, hc'⟩⟩ :=
    smcVerdict_cases s i
  · exact absurd hz hz'
  · exact absurd hz hz'
  · rw [exec_of_smcVerdict_refuse hv] at h; cases h
  · rw [exec_of_smcVerdict_ends hv] at h; cases h; exact ⟨hit, rfl⟩
  · rw [hc] at hc'; cases hc'

/-! ## The inputs the decision reads (R20, R24, R28, R29) -/

/-- After the check of R75 the operation reads what the disable test reads, and no more. -/
theorem smcCommon_congr_of_disableOrTake {s s' : State} (hcfg : s'.cfg = s.cfg)
    (hcheck : checkForSMCUndefOrTrap s' = checkForSMCUndefOrTrap s)
    (htake : disableOrTake s' = disableOrTake s) : smcCommon s' = smcCommon s := by
  simp only [smcCommon, hcfg, hcheck, htake]

/-- With EL3 using AArch64 the disable test reads `SCR_EL3.SMD` alone (R76). -/
theorem disableOrTake_congr_of_el3_aarch64 {s s' : State} (hcfg : s'.cfg = s.cfg)
    (h3 : s.cfg.el3AArch32 = false) (hsmd : s'.pe.scrEl3Smd = s.pe.scrEl3Smd) :
    disableOrTake s' = disableOrTake s := by
  simp only [disableOrTake, hcfg, h3, hsmd, if_true]

/-- With EL3 using AArch32 the disable test reads `SCR.SCD` and the Security state (R77, R78). -/
theorem disableOrTake_congr_of_el3_aarch32 {s s' : State} (hcfg : s'.cfg = s.cfg)
    (h3 : s.cfg.el3AArch32 = true) (hscd : s'.pe.scrScd = s.pe.scrScd)
    (hss : s'.pe.ss = s.pe.ss) : disableOrTake s' = disableOrTake s := by
  simp only [disableOrTake, hcfg, h3, hscd, hss, Bool.true_eq_false, if_false]

/-- The A1 encoding has no IT test: it reads the configuration and the condition's answer outside the operation. -/
theorem smcVerdict_smcA1_congr {s s' : State} (c : BitVec 4) (z : BitVec 12) (n : BitVec 4)
    (hcfg : s'.cfg = s.cfg)
    (hcond : conditionPassed s' (.smcA1 c z n) = conditionPassed s (.smcA1 c z n))
    (hcommon : smcCommon s' = smcCommon s) :
    smcVerdict s' (.smcA1 c z n) = smcVerdict s (.smcA1 c z n) := by
  simp only [smcVerdict, sbzTest, underCondition, hcfg, hcond, hcommon]

theorem hcrTscRead_congr {s s' : State} (hcfg : s'.cfg = s.cfg)
    (htsc : s'.pe.hcrTsc = s.pe.hcrTsc) : hcrTscRead s' = hcrTscRead s := by
  simp only [hcrTscRead, hcfg, htsc]

/-! ## The open condition function (R23) -/

/-- The condition answers that follow a given table: one entry for each `cond`, and one for T1. -/
def CondAnswers.ofTable (f : BitVec 4 → Bool) (b : Bool) : CondAnswers :=
  { a1 := BitVec.ofFnLE fun c => f (BitVec.ofFin c), t1 := b }

theorem CondAnswers.ofTable_forInstr_smcA1 (f : BitVec 4 → Bool) (b : Bool) (c : BitVec 4)
    (z : BitVec 12) (n : BitVec 4) : (CondAnswers.ofTable f b).forInstr (.smcA1 c z n) = f c := by
  simp only [CondAnswers.ofTable, CondAnswers.forInstr, BitVec.getLsbD_ofFnLE, dif_pos c.isLt]
  rfl

theorem CondAnswers.ofTable_forInstr_smcT1 (f : BitVec 4 → Bool) (b : Bool) (n : BitVec 4)
    (z : BitVec 12) : (CondAnswers.ofTable f b).forInstr (.smcT1 n z) = b := rfl

/-- Where the function is open, the answers the state holds are the results. -/
theorem conditionPassed_with_answers {s : State} (h : s.cfg.condition = .given)
    (answers : CondAnswers) (i : Instr) :
    conditionPassed { s with pe := { s.pe with cp := answers } } i = answers.forInstr i := by
  simp only [conditionPassed, h]

/-! ## The standard condition model (G1, G2) -/

section standard
variable {s : State} (h : s.cfg.condition = .standard)
include h

theorem conditionPassed_of_standard (i : Instr) :
    conditionPassed s i = conditionHolds (standardCondition s.pe i) s.pe.rest.psr.nzcv := by
  simp only [conditionPassed, h]

theorem inITBlock_of_standard : inITBlock s = itInBlock s.pe.rest.psr.it := by
  simp only [inITBlock, h]

theorem lastInITBlock_of_standard : lastInITBlock s = itLastInBlock s.pe.rest.psr.it := by
  simp only [lastInITBlock, h]

end standard

/-- The row of AL. -/
theorem conditionHolds_al (f : BitVec 4) : conditionHolds 0xE#4 f = true := rfl

/-- LS negates HI: the one pair of rows, with GT and LE, whose negation goes through De Morgan's law. -/
theorem conditionHolds_ls (f : BitVec 4) : conditionHolds 0x9#4 f = !conditionHolds 0x8#4 f := by
  change (!f.getLsbD 1 || f.getLsbD 2) = !(f.getLsbD 1 && !f.getLsbD 2)
  rw [Bool.not_and, Bool.not_not]

/-- LE negates GT. -/
theorem conditionHolds_le (f : BitVec 4) : conditionHolds 0xD#4 f = !conditionHolds 0xC#4 f := by
  change (f.getLsbD 2 || f.getLsbD 3 != f.getLsbD 0) = !(!f.getLsbD 2 && f.getLsbD 3 == f.getLsbD 0)
  rw [Bool.not_and, Bool.not_not, bne]

theorem itCondition_of_in_block {it : BitVec 8} (h : itInBlock it = true) :
    itCondition it = it.extractLsb' 4 4 := by
  simp only [itCondition, h, if_true]

theorem itCondition_of_outside {it : BitVec 8} (h : itInBlock it = false) :
    itCondition it = 0xE#4 := by
  simp only [itCondition, h, Bool.false_eq_true, if_false]

/-- Outside a block the condition is AL, which passes: a T1 instruction whose condition fails is inside one. -/
theorem conditionPassed_smcT1_of_outside {s : State} (h : s.cfg.condition = .standard)
    (hout : inITBlock s = false) (n : BitVec 4) (z : BitVec 12) :
    conditionPassed s (.smcT1 n z) = true := by
  rw [inITBlock_of_standard h] at hout
  rw [conditionPassed_of_standard h, standardCondition, itCondition_of_outside hout,
    conditionHolds_al]

/-- At the last position ITSTATE[2:0] is zero, so the block ends there. -/
theorem itAdvance_of_last {it : BitVec 8} (h : itLastInBlock it = true) : itAdvance it = 0#8 := by
  have hlow4 : it.extractLsb' 0 4 = 0b1000#4 := by simpa only [itLastInBlock, beq_iff_eq] using h
  have hlow3 : it.extractLsb' 0 3 = 0b000#3 :=
    calc it.extractLsb' 0 3 = (it.extractLsb' 0 4).extractLsb' 0 3 := by ext; simp
      _ = 0b000#3 := by rw [hlow4]; rfl
  rw [itAdvance, if_pos hlow3]

/-- ITSTATE after a skipped instruction of T32. -/
theorem inITBlock_conclude_skipped {s : State} (h : s.cfg.condition = .standard)
    (ht : s.pe.iset = .t32) :
    inITBlock (conclude .skipped s) = itInBlock (itAdvance s.pe.rest.psr.it) := by
  rw [inITBlock_of_standard (s := conclude .skipped s) h, conclude_pe, peAfter,
    nextInstruction_rest]
  obtain ⟨-, -, hrest⟩ | ⟨hnot, -⟩ := restAfter_cases s.cfg s.pe
  · rw [hrest]
  · exact absurd ⟨h, ht⟩ hnot

/-- A T1 instruction that is skipped stood last in its IT block, since elsewhere in one it is refused and outside one
it is not skipped; so the block has ended after it. -/
theorem inITBlock_after_skipped_smcT1 {s t : State} {n : BitVec 4}
    (hstd : s.cfg.condition = .standard) (ht32 : s.pe.iset = .t32)
    (hc : conditionPassed s (.smcT1 n 0#12) = false) (h : exec (.smcT1 n 0#12) s = .next t) :
    inITBlock t = false := by
  obtain ⟨hallows, rfl⟩ := exec_next_of_failed rfl hc h
  have hin : inITBlock s = true := by
    by_contra hout
    rw [conditionPassed_smcT1_of_outside hstd (Bool.not_eq_true _ ▸ hout)] at hc
    cases hc
  have hlast : itLastInBlock s.pe.rest.psr.it = true := by
    rw [← lastInITBlock_of_standard hstd]
    simpa [itAllows, hin] using hallows
  rw [inITBlock_conclude_skipped hstd ht32, itAdvance_of_last hlast]
  rfl

end Sys2Proof.Machine
end

section
/-! The statements of 10_state.md: what a step keeps, what the decision reads, the reset state, the condition model. -/

namespace Sys2Proof.Proofs

open Sys2Proof Sys2Proof.Machine

/-- Settles O31: every step that answers a next state has settled a verdict, which touches neither the configuration
nor the text and reports the pc it started from. -/
theorem stepKeepsConfigurationAndText : Obligations.StepKeepsConfigurationAndText := by
  intro s t h
  obtain ⟨hcfg, htext, o, hlast⟩ := step_next_frame h
  exact ⟨hcfg, fun a => by rw [htext], ⟨o, s.pe.pc⟩, hlast, rfl⟩

/-- Settles O39: A1 tests its own `cond`, T1 the condition of its IT position; a skipped T1 was the last of its block. -/
theorem standardConditionModel : Obligations.StandardConditionModel := by
  refine ⟨fun s c z n h => conditionPassed_of_standard h _, fun s n z h hit => ?outside,
    fun s n z h hin => ?inside, fun s t n => inITBlock_after_skipped_smcT1⟩
  case outside =>
    have hout : inITBlock s = false := by rw [inITBlock_of_standard h, hit]; rfl
    exact ⟨conditionPassed_smcT1_of_outside h hout n z, hout⟩
  case inside =>
    rw [inITBlock_of_standard h] at hin
    rw [conditionPassed_of_standard h, standardCondition, itCondition_of_in_block hin]
    rfl

/-- Settles O9: the fetch reads the text at the pc. -/
theorem stepRunsTheDecodedInstruction : Obligations.StepRunsTheDecodedInstruction :=
  fun _ _ _ hes hw hi => step_of_decode hes hw hi

/-- Settles O29: the disable test reads only the bit of the EL3 in use, and A1 has no IT test. The check of R75 reads
neither bit, so it answers alike by definition. -/
theorem bitsThatAreNotReadDecideNothing : Obligations.BitsThatAreNotReadDecideNothing := by
  refine ⟨fun i s b h3 => ?scd, fun i s b h3 => ?smd, fun c z n s b l => ?itPosition⟩
  case scd =>
    exact smcVerdict_congr i rfl rfl rfl rfl <|
      smcCommon_congr_of_disableOrTake rfl rfl (disableOrTake_congr_of_el3_aarch64 rfl h3 rfl)
  case smd =>
    exact smcVerdict_congr i rfl rfl rfl rfl <|
      smcCommon_congr_of_disableOrTake rfl rfl (disableOrTake_congr_of_el3_aarch32 rfl h3 rfl rfl)
  case itPosition =>
    exact smcVerdict_smcA1_congr c z n rfl rfl (smcCommon_congr rfl rfl rfl rfl rfl rfl)

/-- Settles O30: the wrapper reads the first four inputs and the operation the others. -/
theorem decisionReadsOnlyTheListedInputs : Obligations.DecisionReadsOnlyTheListedInputs := by
  intro i s s' hcfg hcond hin hlast hel hss htsc hscd hsmd
  have hcommon : smcCommon s' = smcCommon s :=
    smcCommon_congr hcfg hel hss (hcrTscRead_congr hcfg htsc) hscd hsmd
  exact smcVerdict_congr i hcfg hcond hin hlast hcommon

/-- Settles O34: nothing has been reported at reset, so nothing is promised. -/
theorem resetHasTheInvariant : Obligations.ResetHasTheInvariant :=
  ⟨Memory.wf_reset, fun _ hr => nomatch hr⟩

/-- Settles O35: an empty text has no instruction to fetch. -/
theorem resetHasNoProgram : Obligations.ResetHasNoProgram :=
  ⟨rfl, rfl, rfl, rfl, step_of_fetch_none rfl rfl⟩

/-- Settles O40: every row is the test the table writes, but LS and LE, which are written as tests of their own. -/
theorem conditionTable : Obligations.ConditionTable := fun f =>
  ⟨rfl, rfl, rfl, rfl, rfl, rfl, rfl, rfl, rfl, conditionHolds_ls f, rfl, rfl, rfl,
    conditionHolds_le f, conditionHolds_al f⟩

/-- Settles O46: the answer reads `cond` alone, and the state's answers can follow any table. -/
theorem conditionResultDependsOnCondAlone : Obligations.ConditionResultDependsOnCondAlone := by
  refine ⟨conditionPassed_smcA1, fun s z z' n n' => conditionPassed_smcT1 s n n' z z',
    fun s f b h => ⟨.ofTable f b, fun c z n => ?a1, fun n z => ?t1⟩⟩
  case a1 => rw [conditionPassed_with_answers h, CondAnswers.ofTable_forInstr_smcA1]
  case t1 => rw [conditionPassed_with_answers h, CondAnswers.ofTable_forInstr_smcT1]

end Sys2Proof.Proofs
end

section
/-! SUPPORT. The facts about the load that the statement of 20_memory.md needs: what a row's word decodes to, and what
the next step finds where `withFetchWord` has placed it. -/

namespace Sys2Proof.Machine

open Sys2Proof

/-- A row's word is read as the instruction that its own instruction set decodes it to. -/
theorem decodeTableWord_eq_some_iff (nbits w : Nat) (i : Instr) :
    decodeTableWord nbits w = some i ↔
      ∃ isa, tableIsa (tableBits nbits w) = some isa ∧
        decode isa (tableBits nbits w) = .instr i := by
  unfold decodeTableWord
  cases tableIsa (tableBits nbits w) with
  | none => simp
  | some isa => cases hd : decode isa (tableBits nbits w) <;> simp [hd]

/-- The bits placed at the pc are the ones fetched (R41). -/
@[simp] theorem fetch_withFetchWord (s : State) (nbits w : Nat) :
    fetch (s.withFetchWord nbits w) = some (tableBits nbits w) :=
  Memory.read_write_same s.text s.pe.pc.toNat (tableBits nbits w)

/-- The load selects the instruction set in which the bits are the row's instruction (R21, log 21). -/
theorem decode_withFetchWord_iset {s : State} {nbits w : Nat} {i : Instr}
    (h : decodeTableWord nbits w = some i) :
    decode (s.withFetchWord nbits w).pe.iset (tableBits nbits w) = .instr i := by
  obtain ⟨isa, hisa, hdecode⟩ := (decodeTableWord_eq_some_iff nbits w i).mp h
  rw [withFetchWord_iset, hisa, Option.getD_some, hdecode]

/-- The load writes the text at the pc only. -/
theorem read_withFetchWord_other (s : State) (nbits w : Nat) {a : Nat} (ha : a ≠ s.pe.pc.toNat) :
    Memory.read (s.withFetchWord nbits w).text a = Memory.read s.text a := by
  rw [withFetchWord_text, Memory.read_write_other _ _ ha]

end Sys2Proof.Machine
end

section
/-! The statement of 20_memory.md: the word placed at the pc is the next instruction run. -/

namespace Sys2Proof.Proofs

open Sys2Proof Sys2Proof.Machine

/-- Settles O11: the placed bits are fetched, and decoded in the instruction set that the load selected. -/
theorem placedWordIsRunNext : Obligations.PlacedWordIsRunNext := by
  intro s nbits w i h
  have hstep : step (s.withFetchWord nbits w) = exec i (s.withFetchWord nbits w) :=
    step_of_decode (withFetchWord_es s nbits w) (fetch_withFetchWord s nbits w)
      (decode_withFetchWord_iset h)
  exact ⟨hstep, fun _ ha => read_withFetchWord_other s nbits w ha, withFetchWord_pc s nbits w,
    withFetchWord_cfg s nbits w⟩

end Sys2Proof.Proofs
end

section
/-! SUPPORT. The facts about the decoder and the encoder that the statements of 30_encoding.md need: the fields of an
encoding, the word that the fields of a match assemble to, and what the decoder reads. -/

namespace Sys2Proof

/-! ## Bits under a mask -/

/-- A match fixes every bit under its mask. -/
theorem getLsbD_of_and_eq {w m v : Word} (h : w &&& m = v) {j : Nat} (hj : m.getLsbD j = true) :
    w.getLsbD j = v.getLsbD j := by
  rw [← h, BitVec.getLsbD_and, hj, Bool.and_true]

/-- Words that agree under a mask agree under every mask inside it. -/
theorem and_eq_and_of_submask {w v M m : Word} (hm : M &&& m = m) (h : w &&& M = v &&& M) :
    w &&& m = v &&& m := by
  rw [← hm, ← BitVec.and_assoc, ← BitVec.and_assoc, h]

/-- The twelve bits that the A1 mask covers (R51). -/
theorem getLsbD_maskA1 (j : Nat) :
    (0x0FF000F0#32).getLsbD j = true ↔ (20 ≤ j ∧ j ≤ 27) ∨ (4 ≤ j ∧ j ≤ 7) := by
  by_cases hj : j < 32
  · interval_cases j <;> simp
  · rw [BitVec.getLsbD_of_ge _ j (Nat.not_lt.mp hj)]
    simp only [Bool.false_eq_true, false_iff]
    omega

theorem matchesA1_iff (w : Word) : matchesA1 w = true ↔ w &&& 0x0FF000F0#32 = 0x01600070#32 :=
  beq_iff_eq

theorem matchesT1_iff (w : Word) : matchesT1 w = true ↔ w &&& 0xFFF0F000#32 = 0xF7F08000#32 :=
  beq_iff_eq

/-! ## The fields of an encoding (R51, R55) -/

/-- A field is read off bit by bit. -/
theorem extractLsb'_eq_of_getLsbD {w : Word} {start len : Nat} {x : BitVec len}
    (h : ∀ j < len, w.getLsbD (start + j) = x.getLsbD j) : w.extractLsb' start len = x := by
  apply BitVec.eq_of_getLsbD_eq
  intro j hj
  rw [BitVec.getLsbD_extractLsb', h j hj, decide_eq_true hj, Bool.true_and]

@[simp] theorem condA1_encode (c : BitVec 4) (z : BitVec 12) (n : BitVec 4) :
    condA1 (encode (.smcA1 c z n)) = c :=
  extractLsb'_eq_of_getLsbD fun j hj => by
    rw [getLsbD_encodeA1]
    interval_cases j <;> rfl

@[simp] theorem sbzA1_encode (c : BitVec 4) (z : BitVec 12) (n : BitVec 4) :
    sbzA1 (encode (.smcA1 c z n)) = z :=
  extractLsb'_eq_of_getLsbD fun j hj => by
    rw [getLsbD_encodeA1]
    interval_cases j <;> rfl

@[simp] theorem imm4A1_encode (c : BitVec 4) (z : BitVec 12) (n : BitVec 4) :
    imm4A1 (encode (.smcA1 c z n)) = n :=
  BitVec.extractLsb'_append_eq_right

@[simp] theorem imm4T1_encode (n : BitVec 4) (z : BitVec 12) :
    imm4T1 (encode (.smcT1 n z)) = n :=
  extractLsb'_eq_of_getLsbD fun j hj => by
    rw [getLsbD_encodeT1]
    interval_cases j <;> rfl

@[simp] theorem sbzT1_encode (n : BitVec 4) (z : BitVec 12) :
    sbzT1 (encode (.smcT1 n z)) = z :=
  BitVec.extractLsb'_append_eq_right

/-! ## The word that the fields of a match assemble to -/

/-- The match fixes the bits under the mask, and every other bit stands in a field. -/
theorem encode_fieldsA1 {w : Word} (h : matchesA1 w = true) :
    encode (.smcA1 (condA1 w) (sbzA1 w) (imm4A1 w)) = w := by
  apply BitVec.eq_of_getLsbD_eq
  intro j hj
  by_cases hmask : (0x0FF000F0#32).getLsbD j = true
  · rw [getLsbD_of_and_eq (encodeA1_masked _ _ _) hmask,
      getLsbD_of_and_eq ((matchesA1_iff w).mp h) hmask]
  · rw [getLsbD_encodeA1, condA1, sbzA1, imm4A1]
    revert hmask
    interval_cases j <;> simp

/-- The match fixes the bits under the mask, and every other bit stands in a field. -/
theorem encode_fieldsT1 {w : Word} (h : matchesT1 w = true) :
    encode (.smcT1 (imm4T1 w) (sbzT1 w)) = w := by
  apply BitVec.eq_of_getLsbD_eq
  intro j hj
  by_cases hmask : (0xFFF0F000#32).getLsbD j = true
  · rw [getLsbD_of_and_eq (encodeT1_masked _ _) hmask,
      getLsbD_of_and_eq ((matchesT1_iff w).mp h) hmask]
  · rw [getLsbD_encodeT1, imm4T1, sbzT1]
    revert hmask
    interval_cases j <;> simp

/-- `cond` is read outside the should-be-zero bits. -/
theorem condA1_congr {w v : Word} (h : w &&& 0xFFF000FF#32 = v &&& 0xFFF000FF#32) :
    condA1 w = condA1 v := by
  have hand (x : Word) : condA1 x = condA1 (x &&& 0xFFF000FF#32) := by
    rw [condA1, condA1, BitVec.extractLsb'_and]
    exact BitVec.and_allOnes.symm
  rw [hand w, hand v, h]

/-! ## What the decoder reads (R50, R54) -/

theorem decodeA32_eq_instr_iff (w : Word) (i : Instr) :
    decode .a32 w = .instr i ↔
      matchesA1 w = true ∧ condA1 w ≠ 0b1111#4 ∧
        i = .smcA1 (condA1 w) (sbzA1 w) (imm4A1 w) := by
  rw [decode]
  obtain ⟨hd, hm⟩ | ⟨hd, hm, hc⟩ | ⟨hd, hm, hc⟩ := decodeA32_cases w
  · simp [hd, hm]
  · simp [hd, hc]
  · simp [hd, hm, hc, eq_comm]

theorem decodeT32_eq_instr_iff (w : Word) (i : Instr) :
    decode .t32 w = .instr i ↔
      matchesT1 w = true ∧ i = .smcT1 (imm4T1 w) (sbzT1 w) := by
  rw [decode]
  obtain ⟨hd, hm⟩ | ⟨hd, hm⟩ := decodeT32_cases w
  · simp [hd, hm]
  · simp [hd, hm, eq_comm]

/-- The A32 decoder reads something exactly on the match and a `cond` other than 1111 (R51, R52). -/
theorem exists_decodeA32_iff (w : Word) :
    (∃ i, decode .a32 w = .instr i) ↔
      w &&& 0x0FF000F0#32 = 0x01600070#32 ∧ condA1 w ≠ 0b1111#4 := by
  simp only [decodeA32_eq_instr_iff, matchesA1_iff, exists_and_left, exists_eq, and_true]

/-- The T32 decoder reads something exactly on the match (R55). -/
theorem exists_decodeT32_iff (w : Word) :
    (∃ i, decode .t32 w = .instr i) ↔ w &&& 0xFFF0F000#32 = 0xF7F08000#32 := by
  simp only [decodeT32_eq_instr_iff, matchesT1_iff, exists_and_left, exists_eq, and_true]

/-- The decoder inverts the encoder: it reads `i` exactly from the encoding of `i`, when `i` is a well-formed
instruction of the set it reads in. -/
theorem decode_eq_instr_iff (isa : InstrSet) (w : Word) (i : Instr) :
    decode isa w = .instr i ↔ i.wf = true ∧ i.isa = isa ∧ encode i = w := by
  constructor
  · intro h
    cases isa with
    | a32 =>
      obtain ⟨hm, hc, rfl⟩ := (decodeA32_eq_instr_iff w i).mp h
      exact ⟨bne_iff_ne.mpr hc, rfl, encode_fieldsA1 hm⟩
    | t32 =>
      obtain ⟨hm, rfl⟩ := (decodeT32_eq_instr_iff w i).mp h
      exact ⟨rfl, rfl, encode_fieldsT1 hm⟩
  · rintro ⟨hwf, rfl, rfl⟩
    cases i with
    | smcA1 c z n =>
      have hc : c ≠ 0b1111#4 := bne_iff_ne.mp hwf
      have hm := (matchesA1_iff _).mpr (encodeA1_masked c z n)
      exact (decodeA32_eq_instr_iff _ _).mpr ⟨hm, by simpa using hc, by simp⟩
    | smcT1 n z =>
      have hm := (matchesT1_iff _).mpr (encodeT1_masked n z)
      exact (decodeT32_eq_instr_iff _ _).mpr ⟨hm, by simp⟩

/-! ## The two halfwords of a T32 instruction (R54, R55) -/

/-- A pair of halfwords determines both. -/
theorem ofHalfwords_eq_iff (hw1 hw2 v1 v2 : Halfword) :
    ofHalfwords hw1 hw2 = ofHalfwords v1 v2 ↔ hw1 = v1 ∧ hw2 = v2 := by
  constructor
  · intro h
    have hhigh := congrArg (BitVec.extractLsb' 16 16) h
    have hlow := congrArg (BitVec.extractLsb' 0 16) h
    simp only [ofHalfwords, BitVec.extractLsb'_append_eq_left] at hhigh
    simp only [ofHalfwords, BitVec.extractLsb'_append_eq_right] at hlow
    exact ⟨hhigh, hlow⟩
  · rintro ⟨rfl, rfl⟩
    rfl

/-- A mask over the pair is one mask over each halfword. -/
theorem ofHalfwords_and (hw1 hw2 m1 m2 : Halfword) :
    ofHalfwords hw1 hw2 &&& ofHalfwords m1 m2 = ofHalfwords (hw1 &&& m1) (hw2 &&& m2) :=
  BitVec.and_append

/-- The match over the pair is the match over each halfword (R55). -/
theorem ofHalfwords_masked_iff (hw1 hw2 : Halfword) :
    ofHalfwords hw1 hw2 &&& 0xFFF0F000#32 = 0xF7F08000#32 ↔
      hw1 &&& 0xFFF0#16 = 0xF7F0#16 ∧ hw2 &&& 0xF000#16 = 0x8000#16 := by
  rw [← ofHalfwords_eq_iff, ← ofHalfwords_and]
  rfl

/-- The boxes of the T1 diagram, the first three in `hw1` and the others in `hw2`. -/
theorem encodeT1_eq_ofHalfwords (n : BitVec 4) (z : BitVec 12) :
    encode (.smcT1 n z) =
      ofHalfwords (0b11110111111#11 ++ 0b1#1 ++ n) (0b10#2 ++ 0b0#1 ++ 0b0#1 ++ z) := by
  rw [ofHalfwords, BitVec.append_assoc', BitVec.append_assoc', BitVec.append_assoc']
  rfl

theorem imm4T1_ofHalfwords (hw1 hw2 : Halfword) :
    imm4T1 (ofHalfwords hw1 hw2) = hw1.extractLsb 3 0 :=
  BitVec.extractLsb'_append_eq_of_le (by decide)

theorem sbzT1_ofHalfwords (hw1 hw2 : Halfword) :
    sbzT1 (ofHalfwords hw1 hw2) = hw2.extractLsb 11 0 :=
  BitVec.extractLsb'_append_eq_of_add_le (by decide)

/-! ## Assembly with every "(0)" bit zero (R51, R55) -/

theorem encodeA1_sbz_zero (c n : BitVec 4) :
    encode (.smcA1 c 0#12 n) =
      (c.setWidth 32 <<< 28) ||| 0x01600070#32 ||| n.setWidth 32 := by
  apply BitVec.eq_of_getLsbD_eq
  intro j hj
  simp only [getLsbD_encodeA1, BitVec.getLsbD_or, BitVec.getLsbD_shiftLeft, BitVec.getLsbD_setWidth]
  interval_cases j <;> simp

theorem encodeT1_sbz_zero (n : BitVec 4) :
    encode (.smcT1 n 0#12) = ofHalfwords (0xF7F0#16 ||| n.setWidth 16) 0x8000#16 := by
  have hbox : (0b11110111111#11 ++ 0b1#1 ++ n : Halfword) = 0xF7F0#16 ||| n.setWidth 16 := by
    decide +revert
  rw [encodeT1_eq_ofHalfwords, ofHalfwords_eq_iff]
  exact ⟨hbox, rfl⟩

end Sys2Proof
end

section
/-! SUPPORT. The facts about the step and the assembler that the statements of 30_encoding.md need: the stop at bits
that are no `SMC`, and the answers of the assembler. -/

namespace Sys2Proof.Machine

open Sys2Proof

/-- In AArch64 a step is refused (R98). -/
theorem step_of_aarch64 {s : State} (hes : s.pe.es = .aarch64) :
    step s = .refused .leftAArch32 := by
  simp only [step, hes]

/-- In AArch32 a step refuses bits from which the decoder reads nothing (R52, R61). -/
theorem step_of_not_decoded {s : State} {w : Word} (hes : s.pe.es = .aarch32)
    (hw : fetch s = some w) (hd : ¬ ∃ i, decode s.pe.iset w = .instr i) :
    step s = .refused .notSmc := by
  cases h : decode s.pe.iset w with
  | instr i => exact absurd ⟨i, h⟩ hd
  | reject r => simp only [step, hes, hw, h]

/-! ## The instructions an assembler may write (R53, R113) -/

theorem canonical_iff {i : Instr} : i.canonical = true ↔ i.wf = true ∧ i.sbz = 0#12 := by
  rw [Instr.canonical, Bool.and_eq_true, beq_iff_eq]

/-! ## The assembler (R58, R62) -/

theorem assemble_of_narrow (isa : InstrSet) (position : BitVec 4) {a : AsmSmc}
    (hq : a.qual = some .narrow) : assemble isa position a = .error .noNarrowEncoding :=
  if_pos hq

theorem assemble_of_out_of_range (isa : InstrSet) (position : BitVec 4) {a : AsmSmc}
    (hq : a.qual ≠ some .narrow) (himm : a.imm < 0 ∨ 15 < a.imm) :
    assemble isa position a = .error .immOutOfRange := by
  unfold assemble
  rw [if_neg hq, if_pos himm]

theorem assemble_a32_of_in_range (position : BitVec 4) {a : AsmSmc} (hq : a.qual ≠ some .narrow)
    (himm : 0 ≤ a.imm ∧ a.imm ≤ 15) :
    assemble .a32 position a = .instr (.smcA1 (condOrAl a.cond) 0#12 (BitVec.ofInt 4 a.imm)) := by
  rw [assemble, if_neg hq, if_neg (by omega)]

theorem assemble_t32_of_in_range (position : BitVec 4) {a : AsmSmc} (hq : a.qual ≠ some .narrow)
    (himm : 0 ≤ a.imm ∧ a.imm ≤ 15) :
    assemble .t32 position a =
      if condOrAl a.cond = position then .instr (.smcT1 (BitVec.ofInt 4 a.imm) 0#12)
      else .error .conditionMismatch := by
  rw [assemble, if_neg hq, if_neg (by omega)]

/-- What a statement has that assembles. -/
theorem assemble_instr_range {isa : InstrSet} {position : BitVec 4} {a : AsmSmc} {i : Instr}
    (h : assemble isa position a = .instr i) :
    a.qual ≠ some .narrow ∧ 0 ≤ a.imm ∧ a.imm ≤ 15 := by
  have hq : a.qual ≠ some .narrow := fun hq => by
    rw [assemble_of_narrow _ _ hq] at h
    cases h
  have himm : ¬ (a.imm < 0 ∨ 15 < a.imm) := fun himm => by
    rw [assemble_of_out_of_range _ _ hq himm] at h
    cases h
  exact ⟨hq, by omega⟩

/-- Everything the A32 assembler accepts, and what it makes of it. -/
theorem assemble_a32_eq_instr_iff (position : BitVec 4) (a : AsmSmc) (i : Instr) :
    assemble .a32 position a = .instr i ↔
      a.qual ≠ some .narrow ∧ (0 ≤ a.imm ∧ a.imm ≤ 15) ∧
        i = .smcA1 (condOrAl a.cond) 0#12 (BitVec.ofInt 4 a.imm) := by
  constructor
  · intro h
    obtain ⟨hq, himm⟩ := assemble_instr_range h
    rw [assemble_a32_of_in_range position hq himm] at h
    exact ⟨hq, himm, (Assembled.instr.inj h).symm⟩
  · rintro ⟨hq, himm, rfl⟩
    exact assemble_a32_of_in_range position hq himm

/-- Everything the T32 assembler accepts, and what it makes of it. -/
theorem assemble_t32_eq_instr_iff (position : BitVec 4) (a : AsmSmc) (i : Instr) :
    assemble .t32 position a = .instr i ↔
      a.qual ≠ some .narrow ∧ (0 ≤ a.imm ∧ a.imm ≤ 15) ∧ condOrAl a.cond = position ∧
        i = .smcT1 (BitVec.ofInt 4 a.imm) 0#12 := by
  constructor
  · intro h
    obtain ⟨hq, himm⟩ := assemble_instr_range h
    rw [assemble_t32_of_in_range position hq himm] at h
    split at h
    · next hc => exact ⟨hq, himm, hc, (Assembled.instr.inj h).symm⟩
    · cases h
  · rintro ⟨hq, himm, hc, rfl⟩
    rw [assemble_t32_of_in_range position hq himm, if_pos hc]

/-- No mnemonic stands for 1111, so whatever is assembled has a `cond` that A1 admits. -/
theorem condOrAl_ne_1111 (c : Option CondName) : condOrAl c ≠ 0b1111#4 := by
  cases c with
  | none => decide
  | some c => cases c <;> decide

/-- The canonical mnemonic stands for the bits it is printed for, AL for none (92 D16). -/
theorem condOrAl_canonicalCond : ∀ b : BitVec 4, b ≠ 0b1111#4 → condOrAl (canonicalCond b) = b := by
  decide

/-- A number in range is the immediate's value. -/
theorem toNat_ofInt_of_in_range {x : Int} (h : 0 ≤ x ∧ x ≤ 15) :
    ((BitVec.ofInt 4 x).toNat : Int) = x := by
  rw [BitVec.toNat_ofInt]
  omega

/-- A disassembler prints a number in range. -/
theorem disassemble_imm_range (position : BitVec 4) (i : Instr) :
    0 ≤ (disassemble position i).imm ∧ (disassemble position i).imm ≤ 15 := by
  have := i.imm4.isLt
  simp only [disassemble]
  omega

/-- The printed number reads back as the immediate. -/
theorem ofInt_toNat_imm4 (n : BitVec 4) : BitVec.ofInt 4 (n.toNat : Int) = n := by
  rw [BitVec.ofInt_natCast, BitVec.ofNat_toNat, BitVec.setWidth_eq]

end Sys2Proof.Machine
end

section
/-! The statements of 30_encoding.md: the diagrams, the decoder against the encoder, the stops of the step, and the
assembler. -/

namespace Sys2Proof.Proofs

open Sys2Proof Sys2Proof.Machine

/-- Settles O5: the decoder inverts the encoder. -/
theorem decodeOfEncodeIsTheInstruction : Obligations.DecodeOfEncodeIsTheInstruction :=
  fun i hwf => (decode_eq_instr_iff i.isa (encode i) i).mpr ⟨hwf, rfl, rfl⟩

/-- Settles O1: a word is read as A1 exactly when it is the encoding, whose boxes are the diagram's. -/
theorem a1DiagramIsWhatTheDecoderReads : Obligations.A1DiagramIsWhatTheDecoderReads := by
  intro w c z n
  rw [decode_eq_instr_iff]
  exact ⟨fun ⟨hwf, _, he⟩ => ⟨he.symm, bne_iff_ne.mp hwf⟩,
    fun ⟨he, hc⟩ => ⟨bne_iff_ne.mpr hc, rfl, he.symm⟩⟩

/-- Settles O2: the boxes of the encoding fall into the two halfwords, and a pair determines both. -/
theorem t1DiagramIsWhatTheDecoderReads : Obligations.T1DiagramIsWhatTheDecoderReads := by
  intro hw1 hw2 n z
  rw [decode_eq_instr_iff, encodeT1_eq_ofHalfwords, ofHalfwords_eq_iff]
  exact ⟨fun ⟨_, _, h1, h2⟩ => ⟨h1.symm, h2.symm⟩, fun ⟨h1, h2⟩ => ⟨rfl, rfl, h1.symm, h2.symm⟩⟩

/-- Settles O3: the decoder tests the match and `cond`, and reads both outside the should-be-zero bits. -/
theorem a1MatchAndMask : Obligations.A1MatchAndMask := by
  refine ⟨exists_decodeA32_iff, fun w i h => ((decodeA32_eq_instr_iff w i).mp h).2.2,
    getLsbD_maskA1, fun w v h => ?sbzOutside, encodeA1_sbz_zero⟩
  have hmatch : w &&& 0x0FF000F0#32 = v &&& 0x0FF000F0#32 := and_eq_and_of_submask (by decide) h
  have hcond : condA1 w = condA1 v := condA1_congr h
  rw [exists_decodeA32_iff, exists_decodeA32_iff, hmatch, hcond]

/-- Settles O4: a mask over the pair is a mask over each halfword, and each field lies in one halfword. -/
theorem t1MatchAndMask : Obligations.T1MatchAndMask := by
  refine ⟨fun hw1 hw2 => exists_decodeT32_iff _,
    fun hw1 hw2 => (exists_decodeT32_iff _).trans (ofHalfwords_masked_iff hw1 hw2),
    fun hw1 hw2 i h => ?fields, encodeT1_sbz_zero⟩
  obtain ⟨-, rfl⟩ := (decodeT32_eq_instr_iff _ i).mp h
  rw [imm4T1_ofHalfwords, sbzT1_ofHalfwords]

/-- Settles O6: the decoder inverts the encoder. -/
theorem encodeOfDecodeIsTheWord : Obligations.EncodeOfDecodeIsTheWord :=
  fun isa w i => (decode_eq_instr_iff isa w i).mp

/-- Settles O44: the printed condition and number read back as the fields they were printed from. -/
theorem assembleOfDisassembleIsTheInstruction :
    Obligations.AssembleOfDisassembleIsTheInstruction := by
  intro i position hcan hpos
  obtain ⟨hwf, hz⟩ := canonical_iff.mp hcan
  have hq : (disassemble position i).qual ≠ some .narrow := nofun
  have himm : 0 ≤ (disassemble position i).imm ∧ (disassemble position i).imm ≤ 15 :=
    disassemble_imm_range position i
  cases i with
  | smcA1 c z n =>
    obtain rfl : z = 0#12 := hz
    exact (assemble_a32_eq_instr_iff _ _ _).mpr ⟨hq, himm, by
      rw [disassemble, ofInt_toNat_imm4, printedCond, condOrAl_canonicalCond c (bne_iff_ne.mp hwf)]
      rfl⟩
  | smcT1 n z =>
    obtain rfl : z = 0#12 := hz
    exact (assemble_t32_eq_instr_iff _ _ _).mpr
      ⟨hq, himm, condOrAl_canonicalCond position hpos, by rw [disassemble, ofInt_toNat_imm4]; rfl⟩

/-- Settles O45: the assembler tests `.N`, then the range, then in T32 code the condition. -/
theorem assemblerAcceptsZeroToFifteen : Obligations.AssemblerAcceptsZeroToFifteen := by
  refine ⟨fun isa position a => assemble_of_narrow isa position, fun position a hq => ?a32,
    fun position a hq => ?t32, fun isa position a => assemble_of_out_of_range isa position,
    fun isa position a i h => ?accepted⟩
  case a32 => simp [assemble_a32_eq_instr_iff, hq]
  case t32 => simp [assemble_t32_eq_instr_iff, hq, and_assoc]
  case accepted =>
    cases isa with
    | a32 =>
      obtain ⟨-, himm, rfl⟩ := (assemble_a32_eq_instr_iff position a i).mp h
      exact ⟨canonical_iff.mpr ⟨bne_iff_ne.mpr (condOrAl_ne_1111 a.cond), rfl⟩, rfl,
        toNat_ofInt_of_in_range himm, fun _ => ⟨_, rfl⟩⟩
    | t32 =>
      obtain ⟨-, himm, -, rfl⟩ := (assemble_t32_eq_instr_iff position a i).mp h
      exact ⟨rfl, rfl, toNat_ofInt_of_in_range himm, nofun⟩

/-- Settles O7: the two patterns differ in bit 20. -/
theorem noWordIsBothEncodings : Obligations.NoWordIsBothEncodings := by
  intro w i hi j hj
  have ha1 : w.getLsbD 20 = false :=
    bit20_of_matchesA1 ((matchesA1_iff w).mp ((decodeA32_eq_instr_iff w i).mp hi).1)
  have ht1 : w.getLsbD 20 = true :=
    bit20_of_matchesT1 ((matchesT1_iff w).mp ((decodeT32_eq_instr_iff w j).mp hj).1)
  rw [ha1] at ht1
  cases ht1

/-- Settles O8: ten closed words, each run through the decoder. -/
theorem writtenOutWordsDecode : Obligations.WrittenOutWordsDecode := by
  refine ⟨?_, ?_, ?_, ?_, ?_, ?_, ?_, ?_, ?_, ?_⟩ <;> decide

/-- Settles O10: where the match or `cond` fails, the decoder reads nothing. -/
theorem stepStopsOutsideTheSpec : Obligations.StepStopsOutsideTheSpec := by
  refine ⟨fun s => step_of_aarch64, fun s => step_of_fetch_none,
    fun s w hes hiset hw hno => ?a32, fun s w hes hiset hw hno => ?t32⟩
  case a32 =>
    refine step_of_not_decoded hes hw ?_
    rw [hiset, exists_decodeA32_iff]
    rintro ⟨hm, hc⟩
    exact hno.elim (absurd hm) hc
  case t32 =>
    refine step_of_not_decoded hes hw ?_
    rwa [hiset, exists_decodeT32_iff]

end Sys2Proof.Proofs
end


section
/-! SUPPORT. The facts about the operation that the statements of 40_smc.md need: when each of its decisions is made,
what an execution that completes leaves behind, and for which reasons it is refused. -/

namespace Sys2Proof.Machine

open Sys2Proof

/-! ## The completed execution -/

/-- However it ends, an execution is the one operation of its outcome on the PE before the `SMC` (R72, R97). -/
theorem raises_conclude (o : SmcOutcome) (s : State) :
    Raises s o (peAfter o s.cfg s.pe) (conclude o s) :=
  { pe := rfl, last := rfl, cfg := rfl, text := rfl }

/-- Counting a draw touches nothing that the end of the execution reads. -/
theorem raises_conclude_countDraw (o : SmcOutcome) (s : State) :
    Raises s o (peAfter o s.cfg s.pe) (conclude o (countDraw s)) :=
  { pe := rfl, last := rfl, cfg := rfl, text := rfl }

/-- Every execution that answers a next state has ended so, a drawn choice or not. -/
theorem exec_next_raises {i : Instr} {s t : State} (h : exec i s = .next t) :
    ∃ o, Raises s o (peAfter o s.cfg s.pe) t := by
  rw [exec_eq_settle] at h
  obtain ⟨o, -, rfl⟩ | ⟨-, rfl⟩ := settle_next_cases h
  · exact ⟨o, raises_conclude o s⟩
  · exact ⟨_, raises_conclude_countDraw _ s⟩

/-- A verdict that ends the execution completes it without a draw. -/
theorem completes_of_smcVerdict_ends {i : Instr} {s : State} {o : SmcOutcome}
    (h : smcVerdict s i = .ends o) :
    ∃ t, exec i s = .next t ∧ t.draws = s.draws ∧ Raises s o (peAfter o s.cfg s.pe) t :=
  ⟨conclude o s, exec_of_smcVerdict_ends h, conclude_draws o s, raises_conclude o s⟩

theorem exec_of_smcVerdict_constrained {i : Instr} {s : State} (h : smcVerdict s i = .constrained) :
    exec i s =
      .next (conclude (outcomeOfChoice (Config.smdChoice s.draws)) (countDraw s)) := by
  rw [exec_eq_settle, h, settle]

/-- Going on at the next instruction changes nothing the source names but the pc (92 D9). -/
theorem namedUnchanged_of_nextInstruction {s t : State} {o : SmcOutcome}
    (h : Raises s o (nextInstruction s.cfg s.pe) t) : NamedUnchanged s t := by
  obtain ⟨hpe, -, hcfg, htext⟩ := h
  constructor <;> simp [hpe, hcfg, htext]

/-- Going on at the next instruction keeps `rest`, but that ITSTATE advances as `restAfter` says (92 D1, G2). -/
theorem restUnchanged_of_nextInstruction {s t : State} {o : SmcOutcome}
    (h : Raises s o (nextInstruction s.cfg s.pe) t) : RestUnchanged s t := by
  have hrest : t.pe.rest = restAfter s.cfg s.pe := by rw [h.pe, nextInstruction_rest]
  obtain ⟨hstd, ht32, hadv⟩ | ⟨hnot, hsame⟩ := restAfter_cases s.cfg s.pe
  · constructor <;> simp [hrest, hadv, hstd, ht32]
  · exact { butIt := by rw [hrest, hsame], it := by rw [hrest, hsame, if_neg hnot] }

/-- A reported outcome is the one the verdict names, or the one the drawn choice leads to. -/
theorem outcome_eq_iff_of_settle_next {v : Verdict} {s t : State} {r : Report} {o : SmcOutcome}
    (h : settle v s = .next t) (hr : t.last = some r) :
    r.outcome = o ↔
      v = .ends o ∨ (v = .constrained ∧ outcomeOfChoice (Config.smdChoice s.draws) = o) := by
  obtain ⟨o', rfl, rfl⟩ | ⟨rfl, rfl⟩ := settle_next_cases h
  · obtain rfl := Option.some.inj hr
    simp
  · obtain rfl := Option.some.inj hr
    simp

/-- Neither permitted choice leads to a Secure Monitor (R77). -/
theorem outcomeOfChoice_ne_smc (c : SmdChoice) :
    outcomeOfChoice c ≠ .smcAArch32 ∧ ∀ imm16, outcomeOfChoice c ≠ .smcAArch64 imm16 := by
  cases c <;> simp [outcomeOfChoice]

/-! ## The disable test (R76 to R79) -/

theorem bit_ne_one_iff (b : BitVec 1) : b ≠ 1#1 ↔ b = 0#1 := by
  obtain rfl | rfl := BitVec.eq_zero_or_eq_one b <;> decide

theorem disableOrTake_ne_refuse (s : State) (r : Refusal) : disableOrTake s ≠ .refuse r := by
  obtain ⟨h, -⟩ | ⟨h, -⟩ | ⟨h, -⟩ | ⟨h, -⟩ | ⟨h, -⟩ := disableOrTake_cases s <;> simp [h]

theorem disableOrTake_eq_undefined_iff (s : State) :
    disableOrTake s = .ends .undefined ↔
      (s.cfg.el3AArch32 = false ∧ s.pe.scrEl3Smd = 1#1) ∨
      (s.cfg.el3AArch32 = true ∧ s.pe.scrScd = 1#1 ∧ s.pe.ss ≠ .secure) := by
  obtain ⟨h, h3, hm⟩ | ⟨h, h3, hm⟩ | ⟨h, h3, -, hs⟩ | ⟨h, h3, hd, hs⟩ | ⟨h, h3, hd⟩ :=
    disableOrTake_cases s
  · simp [h, h3, hm]
  · simp [h, h3, hm]
  · simp [h, h3, hs]
  · simp [h, h3, hd, hs]
  · simp [h, h3, hd]

/-- Row 7 of R80, after the check. -/
theorem disableOrTake_eq_smcAArch32_iff (s : State) :
    disableOrTake s = .ends .smcAArch32 ↔ s.cfg.el3AArch32 = true ∧ s.pe.scrScd = 0#1 := by
  rw [← bit_ne_one_iff]
  obtain ⟨h, h3, -⟩ | ⟨h, h3, -⟩ | ⟨h, -, hd, -⟩ | ⟨h, -, hd, -⟩ | ⟨h, h3, hd⟩ :=
    disableOrTake_cases s
  · simp [h, h3]
  · simp [h, h3]
  · simp [h, hd]
  · simp [h, hd]
  · simp only [h, h3, ne_eq, hd, not_false_eq_true, and_self]

/-- Row 4 of R80, after the check; the value handed over is `Zeros(16)` (R81). -/
theorem disableOrTake_eq_smcAArch64_iff (s : State) (imm16 : BitVec 16) :
    disableOrTake s = .ends (.smcAArch64 imm16) ↔
      s.cfg.el3AArch32 = false ∧ s.pe.scrEl3Smd = 0#1 ∧ imm16 = 0#16 := by
  rw [← bit_ne_one_iff]
  obtain ⟨h, -, hm⟩ | ⟨h, h3, hm⟩ | ⟨h, h3, -⟩ | ⟨h, h3, -⟩ | ⟨h, h3, -⟩ := disableOrTake_cases s
  · simp [h, hm]
  · simp only [h, h3, ne_eq, hm, not_false_eq_true, true_and, Verdict.ends.injEq,
      SmcOutcome.smcAArch64.injEq, eq_comm]
  · simp [h, h3]
  · simp [h, h3]
  · simp [h, h3]

/-! ## The wrapper tests (R70, R71, R74) -/

/-- Only T1 has an IT test (R71, R112). -/
theorem itAllows_eq_false_iff (s : State) (i : Instr) :
    itAllows s i = false ↔ i.isa = .t32 ∧ inITBlock s = true ∧ lastInITBlock s = false := by
  cases i <;> simp [itAllows, Instr.isa]

/-- A position that is not allowed is refused before the condition is looked at. -/
theorem smcVerdict_of_not_itAllows {i : Instr} {s : State} (hz : i.sbz = 0#12)
    (hit : itAllows s i = false) : smcVerdict s i = .refuse .unpredictableIT := by
  obtain ⟨-, hz', -⟩ | ⟨-, hz', -⟩ | ⟨-, ⟨h, -⟩ | ⟨-, hit', -⟩ | ⟨-, hit', -⟩⟩ :=
    smcVerdict_cases s i
  · exact absurd hz hz'
  · exact absurd hz hz'
  · exact h
  · simp [hit] at hit'
  · simp [hit] at hit'

theorem smcVerdict_of_failed {i : Instr} {s : State} (ha : admitted i s = true)
    (hc : conditionPassed s i = false) : smcVerdict s i = .ends .skipped := by
  rw [smcVerdict_of_admitted ha, underCondition_of_failed hc]

/-- No test of either encoding reads the immediate (R81). -/
theorem smcVerdict_withImm4 (s : State) (i : Instr) (n : BitVec 4) :
    smcVerdict s (i.withImm4 n) = smcVerdict s i := by
  cases i with
  | smcA1 c z m =>
    simp only [Instr.withImm4, smcVerdict, underCondition_congr (conditionPassed_smcA1 s c z z n m)]
  | smcT1 m z =>
    simp only [Instr.withImm4, smcVerdict, underCondition_congr (conditionPassed_smcT1 s n m z z)]

/-- An outcome other than Skipped comes from the operation, under a condition that passed. -/
theorem underCondition_eq_ends_iff {s : State} {i : Instr} {o : SmcOutcome} (ho : o ≠ .skipped) :
    underCondition s i = .ends o ↔ conditionPassed s i = true ∧ smcCommon s = .ends o := by
  cases hc : conditionPassed s i with
  | false => simp [underCondition_of_failed hc, ho.symm]
  | true => simp [underCondition_of_passed hc]

/-- The three reasons for which an execution is refused (R72). -/
theorem smcVerdict_refuse_cases {s : State} {i : Instr} {r : Refusal}
    (h : smcVerdict s i = .refuse r) :
    (r = .shouldBeZero ∧ i.sbz ≠ 0#12) ∨ (r = .unpredictableIT ∧ itAllows s i = false) ∨
      (r = .noEL3 ∧ s.cfg.haveEL3 = false) := by
  obtain ⟨hv, hz, -⟩ | ⟨hv, -⟩ | ⟨-, ⟨hv, hit⟩ | ⟨hv, -⟩ | ⟨hv, -⟩⟩ := smcVerdict_cases s i
  · exact .inl ⟨(Verdict.refuse.inj (hv.symm.trans h)).symm, hz⟩
  · simp [hv] at h
  · exact .inr (.inl ⟨(Verdict.refuse.inj (hv.symm.trans h)).symm, hit⟩)
  · simp [hv] at h
  · rw [hv] at h
    obtain ⟨hc, h3⟩ | ⟨o, hc, -⟩ | ⟨hc, -⟩ := smcCommon_cases s
    · exact .inr (.inr ⟨(Verdict.refuse.inj (hc.symm.trans h)).symm, h3⟩)
    · simp [hc] at h
    · rw [hc] at h
      exact absurd h (disableOrTake_ne_refuse s r)

theorem exec_refused_iff {i : Instr} {s : State} {r : Refusal} :
    exec i s = .refused r ↔ smcVerdict s i = .refuse r := by
  rw [exec_eq_settle]
  cases smcVerdict s i <;> simp [settle]

/-- An admitted execution that passes its condition and completes has EL3, without which it is refused (92 D10). -/
theorem haveEL3_of_exec_next {i : Instr} {s t : State} (ha : admitted i s = true)
    (hc : conditionPassed s i = true) (h : exec i s = .next t) : s.cfg.haveEL3 = true := by
  by_contra h3
  rw [exec_of_no_el3 ha hc (Bool.not_eq_true _ ▸ h3)] at h
  cases h

/-! ## When the operation makes each decision (R75 to R80) -/

theorem operationRuns_iff (i : Instr) (s : State) :
    operationRuns i s = true ↔
      admitted i s = true ∧ conditionPassed s i = true ∧ s.cfg.haveEL3 = true := by
  simp [operationRuns, and_assoc]

theorem reachesDisableTest_iff (i : Instr) (s : State) :
    reachesDisableTest i s = true ↔
      operationRuns i s = true ∧ s.pe.el ≠ .el0 ∧ trapApplies s = false := by
  rw [Ne, ← inUserMode_iff]
  simp [reachesDisableTest, and_assoc]

theorem smcVerdict_of_operationRuns {i : Instr} {s : State} (h : operationRuns i s = true) :
    smcVerdict s i = smcCommon s := by
  obtain ⟨ha, hc, -⟩ := (operationRuns_iff i s).1 h
  rw [smcVerdict_of_admitted ha, underCondition_of_passed hc]

theorem smcCommon_of_check_some {s : State} {o : SmcOutcome} (h3 : s.cfg.haveEL3 = true)
    (hc : checkForSMCUndefOrTrap s = some o) : smcCommon s = .ends o := by
  simp [smcCommon, h3, hc]

theorem smcCommon_of_check_none {s : State} (h3 : s.cfg.haveEL3 = true)
    (hc : checkForSMCUndefOrTrap s = none) : smcCommon s = disableOrTake s := by
  simp [smcCommon, h3, hc]

/-- User mode comes first in the check (R75). -/
theorem checkForSMCUndefOrTrap_of_el0 {s : State} (h : s.pe.el = .el0) :
    checkForSMCUndefOrTrap s = some .undefined :=
  if_pos ((inUserMode_iff s).2 h)

theorem smcVerdict_of_el0 {i : Instr} {s : State} (h : operationRuns i s = true)
    (hel : s.pe.el = .el0) : smcVerdict s i = .ends .undefined := by
  obtain ⟨-, -, h3⟩ := (operationRuns_iff i s).1 h
  rw [smcVerdict_of_operationRuns h,
    smcCommon_of_check_some h3 (checkForSMCUndefOrTrap_of_el0 hel)]

theorem smcVerdict_of_reachesDisableTest {i : Instr} {s : State}
    (h : reachesDisableTest i s = true) : smcVerdict s i = disableOrTake s := by
  obtain ⟨hrun, hpass⟩ := (reachesDisableTest_iff i s).1 h
  obtain ⟨-, -, h3⟩ := (operationRuns_iff i s).1 hrun
  rw [smcVerdict_of_operationRuns hrun,
    smcCommon_of_check_none h3 ((checkForSMCUndefOrTrap_eq_none_iff s).2 hpass)]

/-- The check of R75 ends an execution by an exception of its own, never by a call of the Secure Monitor. -/
theorem checkForSMCUndefOrTrap_ne_smc (s : State) :
    checkForSMCUndefOrTrap s ≠ some .smcAArch32 ∧
      ∀ imm16, checkForSMCUndefOrTrap s ≠ some (.smcAArch64 imm16) := by
  obtain ⟨h, -⟩ | ⟨h, -⟩ | ⟨h, -⟩ | ⟨h, -⟩ := checkForSMCUndefOrTrap_cases s <;> simp [h]

/-- An outcome that the check cannot give is the disable test's, past User mode and the trap. -/
theorem smcCommon_eq_ends_iff {s : State} {o : SmcOutcome}
    (ho : checkForSMCUndefOrTrap s ≠ some o) :
    smcCommon s = .ends o ↔
      s.cfg.haveEL3 = true ∧ s.pe.el ≠ .el0 ∧ trapApplies s = false ∧ disableOrTake s = .ends o := by
  rw [← @and_assoc (s.pe.el ≠ .el0), ← checkForSMCUndefOrTrap_eq_none_iff]
  obtain ⟨h, h3⟩ | ⟨o', h, -, hc⟩ | ⟨h, h3, hc⟩ := smcCommon_cases s
  · simp [h, h3]
  · have hne : o' ≠ o := fun heq => ho (heq ▸ hc)
    simp [h, hc, hne]
  · simp [h, h3, hc]

/-- Row 7 of R80. -/
theorem smcCommon_eq_smcAArch32_iff (s : State) :
    smcCommon s = .ends .smcAArch32 ↔
      s.cfg.haveEL3 = true ∧ s.pe.el ≠ .el0 ∧ trapApplies s = false ∧
        s.cfg.el3AArch32 = true ∧ s.pe.scrScd = 0#1 := by
  rw [smcCommon_eq_ends_iff (checkForSMCUndefOrTrap_ne_smc s).1, disableOrTake_eq_smcAArch32_iff]

/-- Row 4 of R80. -/
theorem smcCommon_eq_smcAArch64_iff (s : State) (imm16 : BitVec 16) :
    smcCommon s = .ends (.smcAArch64 imm16) ↔
      s.cfg.haveEL3 = true ∧ s.pe.el ≠ .el0 ∧ trapApplies s = false ∧
        s.cfg.el3AArch32 = false ∧ s.pe.scrEl3Smd = 0#1 ∧ imm16 = 0#16 := by
  rw [smcCommon_eq_ends_iff ((checkForSMCUndefOrTrap_ne_smc s).2 imm16),
    disableOrTake_eq_smcAArch64_iff]

/-- Whatever the wrapper tests did, a Secure Monitor is called with zeros (R81). -/
theorem eq_zero_of_smcVerdict_smcAArch64 {s : State} {i : Instr} {imm16 : BitVec 16}
    (h : smcVerdict s i = .ends (.smcAArch64 imm16)) : imm16 = 0#16 := by
  obtain ⟨hv, -⟩ | ⟨hv, -⟩ | ⟨-, ⟨hv, -⟩ | ⟨hv, -⟩ | ⟨hv, -⟩⟩ := smcVerdict_cases s i
  · simp [hv] at h
  · simp [hv] at h
  · simp [hv] at h
  · simp [hv] at h
  · rw [hv] at h
    obtain ⟨-, -, -, -, -, hzero⟩ := (smcCommon_eq_smcAArch64_iff s imm16).1 h
    exact hzero

/-- An admitted execution that completes calls the Secure Monitor, of either kind, exactly when the condition passed and
the operation decides so. -/
theorem outcome_eq_smc_iff {i : Instr} {s t : State} {r : Report} {o : SmcOutcome}
    (ha : admitted i s = true) (h : exec i s = .next t) (hr : t.last = some r)
    (ho : o = .smcAArch32 ∨ ∃ imm16, o = .smcAArch64 imm16) :
    r.outcome = o ↔ conditionPassed s i = true ∧ smcCommon s = .ends o := by
  have hne : o ≠ .skipped ∧ outcomeOfChoice (Config.smdChoice s.draws) ≠ o := by
    obtain ⟨hne32, hne64⟩ := outcomeOfChoice_ne_smc (Config.smdChoice s.draws)
    obtain rfl | ⟨imm16, rfl⟩ := ho
    · exact ⟨nofun, hne32⟩
    · exact ⟨nofun, hne64 imm16⟩
  rw [exec_eq_settle, smcVerdict_of_admitted ha] at h
  rw [outcome_eq_iff_of_settle_next h hr, ← underCondition_eq_ends_iff hne.1]
  simp [hne.2]

end Sys2Proof.Machine
end

section
/-! The statements of 40_smc.md: what one execution of an `SMC` does, decision by decision. -/

namespace Sys2Proof.Proofs

open Sys2Proof Sys2Proof.Machine

/-- Settles O12: the failed condition is the last test before the operation, and ends the execution as Skipped. -/
theorem failedConditionDoesNothing : Obligations.FailedConditionDoesNothing := by
  intro i s ha hc
  obtain ⟨t, hexec, hdraws, hend⟩ := completes_of_smcVerdict_ends (smcVerdict_of_failed ha hc)
  exact ⟨t, hexec, hend.last, namedUnchanged_of_nextInstruction hend, hdraws⟩

/-- Settles O13: both outcomes end the execution by the same operation, going on at the next instruction. -/
theorem skippedAndNopGoOnAtTheNextInstruction :
    Obligations.SkippedAndNopGoOnAtTheNextInstruction := by
  intro i s t r h hr hout
  obtain ⟨o, hend⟩ := exec_next_raises h
  have hgo : peAfter o s.cfg s.pe = nextInstruction s.cfg s.pe := by
    obtain rfl := Option.some.inj (hend.last.symm.trans hr)
    obtain rfl | rfl := hout <;> rfl
  rw [hgo] at hend
  exact ⟨by rw [hend.pe, nextInstruction_pc], namedUnchanged_of_nextInstruction hend,
    restUnchanged_of_nextInstruction hend⟩

/-- Settles O14: User mode is the first thing the operation tests. -/
theorem userModeIsUndefined : Obligations.UserModeIsUndefined :=
  fun _ _ hrun hel => completes_of_smcVerdict_ends (smcVerdict_of_el0 hrun hel)

/-- Settles O16: past the check the disable bit of an AArch64 EL3 decides; `SCR.SCD` is no input there. -/
theorem smdMakesItUndefined : Obligations.SmdMakesItUndefined := by
  refine ⟨fun i s hreach h3 hsmd => completes_of_smcVerdict_ends ?undefined,
    bitsThatAreNotReadDecideNothing.1⟩
  rw [smcVerdict_of_reachesDisableTest hreach, disableOrTake_eq_undefined_iff]
  exact .inl ⟨h3, hsmd⟩

/-- Settles O17: the operation reaches `ConstrainUnpredictable`, and the drawn choice ends it in one of its two ways. -/
theorem secureScdIsNopOrUndefined : Obligations.SecureScdIsNopOrUndefined := by
  intro i s hrun hel h3 hscd hss
  obtain ⟨-, -, hhave⟩ := (operationRuns_iff i s).1 hrun
  have hv : smcVerdict s i = .constrained := by
    rw [smcVerdict_of_operationRuns hrun, smcCommon_eq_constrained_iff]
    exact ⟨hhave, hel, h3, hscd, hss⟩
  refine ⟨_, exec_of_smcVerdict_constrained hv, by simp, fun hnop => ?nop, fun hundef => ?undef⟩
  case nop =>
    rw [hnop]
    exact ⟨rfl, namedUnchanged_of_nextInstruction (raises_conclude_countDraw .nop s)⟩
  case undef =>
    rw [hundef]
    exact raises_conclude_countDraw .undefined s

/-- Settles O18: past the check the disable bit of an AArch32 EL3 decides, and outside Secure state without a choice. -/
theorem nonSecureScdIsUndefined : Obligations.NonSecureScdIsUndefined := by
  intro i s hreach h3 hscd hss
  refine completes_of_smcVerdict_ends ?_
  rw [smcVerdict_of_reachesDisableTest hreach, disableOrTake_eq_undefined_iff]
  exact .inr ⟨h3, hscd, hss⟩

/-- Settles O21: the verdict does not read the immediate, and the monitor's value is `Zeros(16)`. -/
theorem immediatePlaysNoPart : Obligations.ImmediatePlaysNoPart := by
  refine ⟨fun i n s => exec_eq_of_smcVerdict_eq (smcVerdict_withImm4 s i n),
    fun i s t a imm16 h hlast => ?monitor⟩
  rw [exec_eq_settle] at h
  obtain hv | ⟨-, hchoice⟩ := (outcome_eq_iff_of_settle_next h hlast).1 rfl
  · exact eq_zero_of_smcVerdict_smcAArch64 hv
  · exact absurd hchoice ((outcomeOfChoice_ne_smc _).2 imm16)

/-- Settles O23: rows 4 and 7 of R80. The statement does not name EL3: an execution that passes its condition and
completes has it. -/
theorem secureMonitorCallExactlyWhenEnabled : Obligations.SecureMonitorCallExactlyWhenEnabled := by
  intro i s t r ha h hr
  have hel3 (hc : conditionPassed s i = true) : s.cfg.haveEL3 = true := haveEL3_of_exec_next ha hc h
  constructor
  · rw [outcome_eq_smc_iff ha h hr (.inl rfl), smcCommon_eq_smcAArch32_iff]
    exact and_congr_right fun hc => and_iff_right (hel3 hc)
  · have h64 (imm16 : BitVec 16) := outcome_eq_smc_iff ha h hr (.inr ⟨imm16, rfl⟩)
    simp only [h64, smcCommon_eq_smcAArch64_iff, exists_and_left, exists_eq, and_true]
    exact and_congr_right fun hc => and_iff_right (hel3 hc)

/-- Settles O24: a verdict that ends the execution reports its outcome, one that draws reports what the draw leads to,
and there are three refusals. -/
theorem everyExecutionEndsInOneOutcome : Obligations.EveryExecutionEndsInOneOutcome := by
  intro i s
  cases hv : smcVerdict s i with
  | ends o => exact .inl ⟨_, o, exec_of_smcVerdict_ends hv, rfl⟩
  | constrained => exact .inl ⟨_, _, exec_of_smcVerdict_constrained hv, rfl⟩
  | refuse r =>
    have hexec := exec_of_smcVerdict_refuse hv
    obtain ⟨rfl, -⟩ | ⟨rfl, -⟩ | ⟨rfl, -⟩ := smcVerdict_refuse_cases hv
    · exact .inr (.inr (.inl hexec))
    · exact .inr (.inl hexec)
    · exact .inr (.inr (.inr hexec))

/-- Settles O26: the IT test stands before the condition, only T1 has one, and no other test refuses by that name. -/
theorem t1InsideAnItBlockIsRefused : Obligations.T1InsideAnItBlockIsRefused := by
  refine ⟨fun n s hin hlast => ?refused, fun i s h => ?converse⟩
  case refused =>
    have hit : itAllows s (.smcT1 n 0#12) = false := (itAllows_eq_false_iff _ _).2 ⟨rfl, hin, hlast⟩
    exact exec_of_smcVerdict_refuse (smcVerdict_of_not_itAllows rfl hit)
  case converse =>
    obtain ⟨hr, -⟩ | ⟨-, hit⟩ | ⟨hr, -⟩ := smcVerdict_refuse_cases (exec_refused_iff.1 h)
    · cases hr
    · exact (itAllows_eq_false_iff s i).1 hit
    · cases hr

end Sys2Proof.Proofs
end

section
/-! SUPPORT. The facts that the statements of 60_exceptions.md need: which decision leads to which exception, what each
outcome promises, and what the sketch entries make of the PE. -/

namespace Sys2Proof.Machine

open Sys2Proof

/-! ## The trap to EL2 (R75, R93) -/

theorem trapApplies_iff (s : State) :
    trapApplies s = true ↔
      s.pe.el = .el1 ∧ s.pe.ss = .nonSecure ∧ s.cfg.haveEL2 = true ∧ s.pe.hcrTsc = 1#1 := by
  cases h2 : s.cfg.haveEL2 <;> simp [trapApplies, inNonSecureEL1, hcrTscRead, h2, and_assoc]

theorem trapApplies_of_el0 {s : State} (h : s.pe.el = .el0) : trapApplies s = false := by
  simp [trapApplies, inNonSecureEL1, h]

/-- In the trap row the level that EL2 uses decides which of the two traps is taken (92 D17). -/
theorem checkForSMCUndefOrTrap_of_trapApplies {s : State} (h : trapApplies s = true) :
    checkForSMCUndefOrTrap s = some (if s.cfg.el2AArch32 then .hypTrap else .el2TrapAArch64) := by
  obtain ⟨-, hu⟩ | ⟨hc, -, -, h2⟩ | ⟨hc, -, -, h2⟩ | ⟨-, -, ht⟩ := checkForSMCUndefOrTrap_cases s
  · simp [trapApplies_of_el0 ((inUserMode_iff s).1 hu)] at h
  · simp [hc, h2]
  · simp [hc, h2]
  · simp [ht] at h

theorem smcVerdict_of_trapApplies {i : Instr} {s : State} (hrun : operationRuns i s = true)
    (h : trapApplies s = true) :
    smcVerdict s i = .ends (if s.cfg.el2AArch32 then .hypTrap else .el2TrapAArch64) := by
  obtain ⟨-, -, h3⟩ := (operationRuns_iff i s).1 hrun
  rw [smcVerdict_of_operationRuns hrun,
    smcCommon_of_check_some h3 (checkForSMCUndefOrTrap_of_trapApplies h)]

/-! ## Which test ended an execution (R70, R71, R74, R80) -/

/-- An execution ends by the should-be-zero policy, by the failed condition, or by the operation. -/
theorem smcVerdict_ends_cases {s : State} {i : Instr} {o : SmcOutcome}
    (h : smcVerdict s i = .ends o) :
    (o = .undefined ∧ s.cfg.sbzPolicy = .undefined) ∨ o = .skipped ∨
      (conditionPassed s i = true ∧ smcCommon s = .ends o) := by
  obtain ⟨hv, -⟩ | ⟨hv, -, hp⟩ | ⟨-, ⟨hv, -⟩ | ⟨hv, -⟩ | ⟨hv, -, hc⟩⟩ := smcVerdict_cases s i
  · simp [hv] at h
  · exact .inl ⟨(Verdict.ends.inj (hv.symm.trans h)).symm, hp⟩
  · simp [hv] at h
  · exact .inr (.inl (Verdict.ends.inj (hv.symm.trans h)).symm)
  · exact .inr (.inr ⟨hc, hv.symm.trans h⟩)

/-- Only the operation draws a choice. -/
theorem smcCommon_of_smcVerdict_constrained {s : State} {i : Instr}
    (h : smcVerdict s i = .constrained) : smcCommon s = .constrained := by
  obtain ⟨hv, -⟩ | ⟨hv, -⟩ | ⟨-, ⟨hv, -⟩ | ⟨hv, -⟩ | ⟨hv, -⟩⟩ := smcVerdict_cases s i
  · simp [hv] at h
  · simp [hv] at h
  · simp [hv] at h
  · simp [hv] at h
  · exact hv.symm.trans h

/-- The operation ends by the check of R75 or by the disable test, and asks for EL3 in either case. -/
theorem smcCommon_ends_cases {s : State} {o : SmcOutcome} (h : smcCommon s = .ends o) :
    s.cfg.haveEL3 = true ∧
      (checkForSMCUndefOrTrap s = some o ∨ disableOrTake s = .ends o) := by
  obtain ⟨hv, -⟩ | ⟨o', hv, h3, hc⟩ | ⟨hv, h3, -⟩ := smcCommon_cases s
  · simp [hv] at h
  · exact ⟨h3, .inl (Verdict.ends.inj (hv.symm.trans h) ▸ hc)⟩
  · exact ⟨h3, .inr (hv.symm.trans h)⟩

/-- A completed execution that reports an outcome is the one operation of that outcome (R72, R97). -/
theorem raises_of_exec_next {i : Instr} {s t : State} {r : Report} (h : exec i s = .next t)
    (hr : t.last = some r) : Raises s r.outcome (peAfter r.outcome s.cfg s.pe) t := by
  obtain ⟨o, hend⟩ := exec_next_raises h
  obtain rfl := Option.some.inj (hend.last.symm.trans hr)
  exact hend

/-- Neither permitted choice leads to a trap (R77). -/
theorem outcomeOfChoice_ne_trap (c : SmdChoice) :
    outcomeOfChoice c ≠ .hypTrap ∧ outcomeOfChoice c ≠ .el2TrapAArch64 := by
  cases c <;> simp [outcomeOfChoice]

theorem outcomeOfChoice_eq_undefined_iff (c : SmdChoice) :
    outcomeOfChoice c = .undefined ↔ c = .constraintUndef := by
  cases c <;> simp [outcomeOfChoice]

/-- A trap is reported only by an execution whose condition passed, in the trap row (R93). -/
theorem trapApplies_of_trapped {i : Instr} {s t : State} {r : Report} (h : exec i s = .next t)
    (hr : t.last = some r) (ho : r.outcome = .hypTrap ∨ r.outcome = .el2TrapAArch64) :
    conditionPassed s i = true ∧ trapApplies s = true := by
  rw [exec_eq_settle] at h
  obtain ⟨hne, hne'⟩ := outcomeOfChoice_ne_trap (Config.smdChoice s.draws)
  have hv : smcVerdict s i = .ends r.outcome := by
    obtain hv | ⟨-, hchoice⟩ := (outcome_eq_iff_of_settle_next h hr).1 rfl
    · exact hv
    · obtain ho | ho := ho
      · exact absurd (hchoice.trans ho) hne
      · exact absurd (hchoice.trans ho) hne'
  constructor
  · obtain ⟨hu, -⟩ | hs | ⟨hc, -⟩ := smcVerdict_ends_cases hv
    · simp [hu] at ho
    · simp [hs] at ho
    · exact hc
  · by_contra ht
    obtain ⟨hnv, hnv'⟩ := smcVerdict_ne_trap i (Bool.not_eq_true _ ▸ ht)
    obtain ho | ho := ho
    · exact hnv (ho ▸ hv)
    · exact hnv' (ho ▸ hv)

/-! ## What the outcomes promise (R98) -/

theorem promises_of_check {s : State} {o : SmcOutcome} (h3 : s.cfg.haveEL3 = true)
    (hc : checkForSMCUndefOrTrap s = some o) : o.promises (conclude o s) := by
  have haveEL2 (ht : trapApplies s = true) : s.cfg.haveEL2 = true := by
    obtain ⟨-, -, h2, -⟩ := (trapApplies_iff s).1 ht
    exact h2
  obtain ⟨h, -⟩ | ⟨h, -, ht, h2⟩ | ⟨h, -, ht, h2⟩ | ⟨h, -⟩ := checkForSMCUndefOrTrap_cases s
  · obtain rfl := Option.some.inj (h.symm.trans hc)
    exact .inl h3
  · obtain rfl := Option.some.inj (h.symm.trans hc)
    exact ⟨h3, haveEL2 ht, h2, takeHypTrap_contract _ _ _ _⟩
  · obtain rfl := Option.some.inj (h.symm.trans hc)
    exact ⟨h3, haveEL2 ht, h2, takeEL2TrapAArch64_contract _ _ _ _⟩
  · simp [h] at hc

theorem promises_of_disableOrTake {s : State} {o : SmcOutcome} (h3 : s.cfg.haveEL3 = true)
    (hd : disableOrTake s = .ends o) : o.promises (conclude o s) := by
  obtain ⟨h, -⟩ | ⟨h, h64, -⟩ | ⟨h, -⟩ | ⟨h, -⟩ | ⟨h, h32, -⟩ := disableOrTake_cases s
  · obtain rfl := Verdict.ends.inj (h.symm.trans hd)
    exact .inl h3
  · obtain rfl := Verdict.ends.inj (h.symm.trans hd)
    exact ⟨h3, h64, rfl, callSecureMonitor_contract _ _ _ _ _⟩
  · simp [h] at hd
  · obtain rfl := Verdict.ends.inj (h.symm.trans hd)
    exact .inl h3
  · obtain rfl := Verdict.ends.inj (h.symm.trans hd)
    exact ⟨h3, h32, takeSMCException_contract _ _ _ _⟩

theorem promises_of_smcVerdict_ends {s : State} {i : Instr} {o : SmcOutcome}
    (h : smcVerdict s i = .ends o) : o.promises (conclude o s) := by
  obtain ⟨rfl, hp⟩ | rfl | ⟨-, hcommon⟩ := smcVerdict_ends_cases h
  · exact .inr hp
  · trivial
  · obtain ⟨h3, hc | hd⟩ := smcCommon_ends_cases hcommon
    · exact promises_of_check h3 hc
    · exact promises_of_disableOrTake h3 hd

/-- A NOP promises the row of R80 that draws; going on at the next instruction has changed none of its conditions. -/
theorem promises_of_smcVerdict_constrained {s : State} {i : Instr} (c : SmdChoice)
    (h : smcVerdict s i = .constrained) :
    (outcomeOfChoice c).promises (conclude (outcomeOfChoice c) (countDraw s)) := by
  obtain ⟨h3, hel, h32, hscd, hss⟩ :=
    (smcCommon_eq_constrained_iff s).1 (smcCommon_of_smcVerdict_constrained h)
  cases c with
  | constraintNop => simp [outcomeOfChoice, SmcOutcome.promises, peAfter, h3, hel, h32, hscd, hss]
  | constraintUndef => exact .inl h3

/-- Every completed execution leaves a state that the outcome it reports promises. -/
theorem promises_of_exec_next {i : Instr} {s t : State} {r : Report} (h : exec i s = .next t)
    (hr : t.last = some r) : r.outcome.promises t := by
  rw [exec_eq_settle] at h
  obtain ⟨o, hv, rfl⟩ | ⟨hv, rfl⟩ := settle_next_cases h
  · obtain rfl := Option.some.inj hr
    exact promises_of_smcVerdict_ends hv
  · obtain rfl := Option.some.inj hr
    exact promises_of_smcVerdict_constrained _ hv

/-! ## The order of the operation's tests (R80, R99) -/

/-- The operation raises the Undefined Instruction exception itself in User mode, or past the trap by a disable bit. -/
theorem smcCommon_eq_undefined_iff (s : State) :
    smcCommon s = .ends .undefined ↔
      s.cfg.haveEL3 = true ∧
        (s.pe.el = .el0 ∨ (trapApplies s = false ∧ disableOrTake s = .ends .undefined)) := by
  cases h3 : s.cfg.haveEL3 with
  | false => simp [smcCommon_of_no_el3 h3]
  | true =>
    rw [← inUserMode_iff]
    obtain ⟨hc, hu⟩ | ⟨hc, hu, ht, -⟩ | ⟨hc, hu, ht, -⟩ | ⟨hc, hu, ht⟩ :=
      checkForSMCUndefOrTrap_cases s
    · simp [smcCommon_of_check_some h3 hc, hu]
    · simp [smcCommon_of_check_some h3 hc, hu, ht]
    · simp [smcCommon_of_check_some h3 hc, hu, ht]
    · simp [smcCommon_of_check_none h3 hc, hu, ht]

theorem disableOrTake_eq_ite (s : State) :
    disableOrTake s =
      if s.cfg.el3AArch32 = false ∧ s.pe.scrEl3Smd = 1#1 then .ends .undefined
      else if s.cfg.el3AArch32 = false then .ends (.smcAArch64 0#16)
      else if s.pe.scrScd = 1#1 ∧ s.pe.ss = .secure then .constrained
      else if s.pe.scrScd = 1#1 then .ends .undefined
      else .ends .smcAArch32 := by
  obtain ⟨h, h3, hm⟩ | ⟨h, h3, hm⟩ | ⟨h, h3, hd, hs⟩ | ⟨h, h3, hd, hs⟩ | ⟨h, h3, hd⟩ :=
    disableOrTake_cases s
  · simp [h, h3, hm]
  · simp [h, h3, hm]
  · simp [h, h3, hd, hs]
  · simp [h, h3, hd, hs]
  · simp [h, h3, hd]

theorem smcCommon_eq_ite (s : State) :
    smcCommon s =
      if s.cfg.haveEL3 = false then .refuse .noEL3
      else if s.pe.el = .el0 then .ends .undefined
      else if trapApplies s = true then
        (if s.cfg.el2AArch32 = true then .ends .hypTrap else .ends .el2TrapAArch64)
      else disableOrTake s := by
  cases h3 : s.cfg.haveEL3 with
  | false => simp [smcCommon_of_no_el3 h3]
  | true =>
    simp only [← inUserMode_iff]
    obtain ⟨hc, hu⟩ | ⟨hc, hu, ht, h2⟩ | ⟨hc, hu, ht, h2⟩ | ⟨hc, hu, ht⟩ :=
      checkForSMCUndefOrTrap_cases s
    · simp [smcCommon_of_check_some h3 hc, hu]
    · simp [smcCommon_of_check_some h3 hc, hu, ht, h2]
    · simp [smcCommon_of_check_some h3 hc, hu, ht, h2]
    · simp [smcCommon_of_check_none h3 hc, hu, ht]

/-! ## The sketch entries (G8, G9, G10) -/

theorem usesSketch_iff (cfg : SmcConfig) :
    usesSketch cfg = true ↔ cfg.entry = .sketch ∧ cfg.el3AArch32 = true := by
  simp [usesSketch]

theorem isetOfT_eq_t32_iff (b : BitVec 1) : isetOfT b = .t32 ↔ b = 1#1 := by
  by_cases hb : b = 1#1 <;> simp [isetOfT, hb]

section usesSketch
variable {cfg : SmcConfig} (h : usesSketch cfg = true) (pe : PE) (a : Word) (len : Nat)
include h

theorem takeSMCException_of_sketch :
    takeSMCException cfg pe a len = withAnswers cfg (sketchTakeSMCException pe a len) := if_pos h

theorem takeHypTrap_of_sketch :
    takeHypTrap cfg pe a len = withAnswers cfg (sketchTakeHypTrap cfg pe a len) := if_pos h

theorem takeUndefined_of_sketch :
    takeUndefined cfg pe a len = withAnswers cfg (sketchTakeUndefined cfg pe a len) := if_pos h

end usesSketch

/-- The answers of the open functions are not among the control bits. -/
theorem controlBitsUnchanged_of_withAnswers {s t : State} {cfg : SmcConfig} {pe : PE}
    (hpe : t.pe = withAnswers cfg pe) (htsc : pe.hcrTsc = s.pe.hcrTsc)
    (hscd : pe.scrScd = s.pe.scrScd) (hsmd : pe.scrEl3Smd = s.pe.scrEl3Smd) :
    ControlBitsUnchanged s t := by
  constructor <;> simp [hpe, htsc, hscd, hsmd]

/-- G8 (1): the saved status is the old one but for ITSTATE, which advances in T32 alone. -/
theorem psrAdvanced_eq (pe : PE) :
    psrAdvanced pe =
      { pe.rest.psr with
        it := if pe.iset = .t32 then itAdvance pe.rest.psr.it else pe.rest.psr.it } := by
  cases h : pe.iset <;> simp [psrAdvanced, h]

theorem lrUndOf_eq (pe : PE) (a : Word) :
    lrUndOf pe a = if pe.iset = .t32 then a + 2#32 else a + 4#32 := by
  cases h : pe.iset <;> simp [lrUndOf, h]

theorem currentSctlr_of_secure {pe : PE} (h : pe.ss = .secure) :
    currentSctlr pe = pe.rest.sctlrS := if_pos h

theorem currentSctlr_of_nonSecure {pe : PE} (h : pe.ss = .nonSecure) :
    currentSctlr pe = pe.rest.sctlrNs := by
  simp [currentSctlr, h]

/-- The vector of Undefined mode, high vectors or not (G9). -/
theorem exceptionBase_add_four (pe : PE) :
    exceptionBase pe + 0x04#32 =
      if (currentSctlr pe).v = 1#1 then 0xFFFF0004#32
      else (if pe.ss = .secure then pe.rest.vbarS else pe.rest.vbarNs) + 4#32 := by
  unfold exceptionBase
  split <;> rfl

/-- Where the exception is not Hyp mode's it is taken to Undefined mode (G9). -/
theorem sketchTakeUndefined_of_not_hyp {cfg : SmcConfig} {pe : PE} (a : Word) (len : Nat)
    (hmode : pe.mode ≠ .hyp)
    (htge : pe.mode = .user ∧ pe.ss = .nonSecure → pe.rest.hcrTge = 0#1) :
    sketchTakeUndefined cfg pe a len = sketchEnterUndefined pe a := by
  have hroute : ¬(pe.mode = .user ∧ pe.ss = .nonSecure ∧ cfg.haveEL2 = true ∧
      pe.rest.hcrTge = 1#1) := fun ⟨huser, hss, _, hone⟩ =>
    (bit_ne_one_iff _).2 (htge ⟨huser, hss⟩) hone
  simp only [sketchTakeUndefined, if_neg hmode, if_neg hroute]

/-- From Hyp mode, and from Non-secure User mode with `HCR.TGE` 1, Hyp mode takes it, at a vector of its own (G9). -/
theorem sketchTakeUndefined_of_hyp {cfg : SmcConfig} {pe : PE} (a : Word) (len : Nat)
    (h : pe.mode = .hyp ∨ (pe.mode = .user ∧ pe.ss = .nonSecure ∧ cfg.haveEL2 = true ∧
      pe.rest.hcrTge = 1#1)) :
    sketchTakeUndefined cfg pe a len =
      sketchEnterHyp pe a (if pe.mode = .hyp then 0x04#32 else 0x14#32)
        { (Config.takeUndefined cfg pe a len).rest.hsr with ec := 0x00#6 } := by
  by_cases hmode : pe.mode = .hyp
  · simp only [sketchTakeUndefined, if_pos hmode]
  · simp only [sketchTakeUndefined, if_neg hmode, if_pos (h.resolve_left hmode)]

end Sys2Proof.Machine
end

section
/-! The statements of 60_exceptions.md: the exceptions an `SMC` raises, in which order its tests stand, and the sketch
entries. -/

namespace Sys2Proof.Proofs

open Sys2Proof Sys2Proof.Machine

/-- Settles O33: the text outlives a step, and each way an execution ends keeps the promise of its outcome. -/
theorem everyStepKeepsTheInvariant : Obligations.EveryStepKeepsTheInvariant := by
  rintro s t ⟨hwf, -⟩ h
  obtain ⟨-, htext, -⟩ := step_next_frame h
  obtain ⟨w, i, -, -, -, hexec⟩ := step_next_cases h
  exact ⟨htext ▸ hwf, fun r hr => promises_of_exec_next hexec hr⟩

/-- Settles O15: the trap is the check's second test; no other test ends in it. -/
theorem nonSecureEL1IsTrappedToEL2 : Obligations.NonSecureEL1IsTrappedToEL2 := by
  refine ⟨fun i s hrun h2 hel hss htsc => ?trapped, fun i s t r h hr ho => ?converse⟩
  case trapped =>
    have hv := smcVerdict_of_trapApplies hrun ((trapApplies_iff s).2 ⟨hel, hss, h2, htsc⟩)
    cases h32 : s.cfg.el2AArch32 with
    | true =>
      rw [h32, if_pos rfl] at hv
      obtain ⟨t, hexec, hdraws, hend⟩ := completes_of_smcVerdict_ends hv
      obtain ⟨hel2, hhyp, -⟩ := takeHypTrap_contract s.cfg s.pe s.pe.pc 4
      exact ⟨t, hexec, hend.pe ▸ hel2, hdraws, fun _ => ⟨hend.pe ▸ hhyp, hend⟩, nofun⟩
    | false =>
      rw [h32, if_neg Bool.false_ne_true] at hv
      obtain ⟨t, hexec, hdraws, hend⟩ := completes_of_smcVerdict_ends hv
      obtain ⟨hel2, -⟩ := takeEL2TrapAArch64_contract s.cfg s.pe s.pe.pc 4
      exact ⟨t, hexec, hend.pe ▸ hel2, hdraws, nofun, fun _ => hend⟩
  case converse =>
    obtain ⟨hc, ht⟩ := trapApplies_of_trapped h hr ho
    obtain ⟨hel, hss, -, htsc⟩ := (trapApplies_iff s).1 ht
    exact ⟨hc, hel, hss, htsc⟩

/-- Settles O19: past the check an AArch32 EL3 with `SCR.SCD` 0 takes the exception, by the contract of its entry. -/
theorem secureMonitorCallIsTakenToMonitorMode :
    Obligations.SecureMonitorCallIsTakenToMonitorMode := by
  intro i s hreach h3 hscd
  have hv : smcVerdict s i = .ends .smcAArch32 := by
    rw [smcVerdict_of_reachesDisableTest hreach, disableOrTake_eq_smcAArch32_iff]
    exact ⟨h3, hscd⟩
  obtain ⟨t, hexec, hdraws, hend⟩ := completes_of_smcVerdict_ends hv
  obtain ⟨hel, hmode, -⟩ := takeSMCException_contract s.cfg s.pe s.pe.pc 4
  exact ⟨t, hexec, hend.pe ▸ hel, hend.pe ▸ hmode, hdraws, hend⟩

/-- Settles O20: past the check an AArch64 EL3 with `SCR_EL3.SMD` 0 is called with zeros, and the call leaves AArch32. -/
theorem secureMonitorIsCalledWithZeros : Obligations.SecureMonitorIsCalledWithZeros := by
  intro i s hreach h3 hsmd
  have hv : smcVerdict s i = .ends (.smcAArch64 0#16) := by
    rw [smcVerdict_of_reachesDisableTest hreach, disableOrTake_eq_smcAArch64_iff]
    exact ⟨h3, hsmd, rfl⟩
  obtain ⟨t, hexec, hdraws, hend⟩ := completes_of_smcVerdict_ends hv
  obtain ⟨hel, hes⟩ := callSecureMonitor_contract 0#16 s.cfg s.pe s.pe.pc 4
  exact ⟨t, hexec, hend.pe ▸ hel, hdraws, hend, step_of_aarch64 (hend.pe ▸ hes)⟩

/-- Settles O22: the operation itself is Undefined in the first three situations, and draws in the fourth, which the
Secure state keeps out of the trap row. -/
theorem undefinedInExactlyFourSituations : Obligations.UndefinedInExactlyFourSituations := by
  intro i s t r ha h hr
  have hel3 (hc : conditionPassed s i = true) : s.cfg.haveEL3 = true := haveEL3_of_exec_next ha hc h
  refine ⟨?situations, fun ho => ?entry⟩
  case entry =>
    have hend := raises_of_exec_next h hr
    rw [ho] at hend
    exact hend.pe
  case situations =>
    rw [exec_eq_settle, smcVerdict_of_admitted ha] at h
    rw [outcome_eq_iff_of_settle_next h hr, underCondition_eq_ends_iff (o := .undefined) nofun,
      underCondition_eq_constrained_iff, smcCommon_eq_undefined_iff,
      disableOrTake_eq_undefined_iff, outcomeOfChoice_eq_undefined_iff]
    constructor
    · rintro (⟨hc, -, hel | ⟨ht, hsmd | hscd⟩⟩ | ⟨⟨hc, -, -, h32, hscd, hss⟩, hdraw⟩)
      · exact ⟨hc, .inl hel⟩
      · exact ⟨hc, .inr ⟨ht, .inl hsmd⟩⟩
      · exact ⟨hc, .inr ⟨ht, .inr (.inl hscd)⟩⟩
      · exact ⟨hc, .inr ⟨trapApplies_of_secure hss, .inr (.inr ⟨h32, hscd, hss, hdraw⟩)⟩⟩
    · rintro ⟨hc, hel | ⟨ht, hsmd | hscd | ⟨h32, hscd, hss, hdraw⟩⟩⟩
      · exact .inl ⟨hc, hel3 hc, .inl hel⟩
      · exact .inl ⟨hc, hel3 hc, .inr ⟨ht, .inl hsmd⟩⟩
      · exact .inl ⟨hc, hel3 hc, .inr ⟨ht, .inr hscd⟩⟩
      · by_cases hel : s.pe.el = .el0
        · exact .inl ⟨hc, hel3 hc, .inl hel⟩
        · exact .inr ⟨⟨hc, hel3 hc, hel, h32, hscd, hss⟩, hdraw⟩

/-- Settles O25: the wrapper's three tests, then the operation's in their order. -/
theorem checksHaveTheirPriority : Obligations.ChecksHaveTheirPriority := by
  intro i s hp
  by_cases hz : i.sbz = 0#12
  case neg => exact (smcVerdict_of_sbz_refuse hz hp).trans (if_pos hz).symm
  rw [if_neg (not_not.2 hz)]
  cases hit : itAllows s i with
  | false => rw [if_pos ((itAllows_eq_false_iff s i).1 hit), smcVerdict_of_not_itAllows hz hit]
  | true =>
    have hpos : ¬(i.isa = .t32 ∧ inITBlock s = true ∧ lastInITBlock s = false) := by
      simp [← itAllows_eq_false_iff, hit]
    rw [if_neg hpos, smcVerdict_of_admitted ((admitted_iff i s).2 ⟨hz, hit⟩)]
    cases hc : conditionPassed s i with
    | false => rw [underCondition_of_failed hc, if_pos rfl]
    | true =>
      rw [underCondition_of_passed hc, smcCommon_eq_ite, disableOrTake_eq_ite]
      simp only [trapApplies_iff, Bool.true_eq_false, if_false]

/-- Settles O38: both entries put the PE in AArch64, where a step has no meaning. -/
theorem aarch64EntryLeavesTheSpec : Obligations.AArch64EntryLeavesTheSpec := by
  intro s t r h hr ho
  obtain ⟨w, i, -, -, -, hexec⟩ := step_next_cases h
  have hpe := (raises_of_exec_next hexec hr).pe
  apply step_of_aarch64
  obtain ho | ⟨imm16, ho⟩ := ho
  · rw [hpe, ho]
    exact (takeEL2TrapAArch64_contract _ _ _ _).2
  · rw [hpe, ho]
    exact (callSecureMonitor_contract imm16 _ _ _ _).2

/-- Settles O41: the exception is taken (O19), and its entry is the sketch's. -/
theorem sketchOfTheSecureMonitorCall : Obligations.SketchOfTheSecureMonitorCall := by
  intro i s hreach h3 hscd hsketch
  obtain ⟨t, hexec, -, -, -, hend⟩ := secureMonitorCallIsTakenToMonitorMode i s hreach h3 hscd
  have hpe : t.pe = withAnswers s.cfg (sketchTakeSMCException s.pe s.pe.pc 4) :=
    hend.pe.trans (takeSMCException_of_sketch ((usesSketch_iff _).2 ⟨hsketch, h3⟩) _ _ _)
  refine ⟨t, hexec, ?_⟩
  rw [hpe, withAnswers_mode, withAnswers_el, withAnswers_ss, withAnswers_pc, withAnswers_iset,
    withAnswers_rest, sketchTakeSMCException, psrAdvanced_eq]
  exact ⟨rfl, rfl, rfl, rfl, isetOfT_eq_t32_iff _,
    controlBitsUnchanged_of_withAnswers hpe rfl rfl rfl, rfl⟩

/-- Settles O42: the trap row decides for Hyp mode, and its entry is the sketch's. -/
theorem sketchOfTheHypTrap : Obligations.SketchOfTheHypTrap := by
  intro i s hrun htrap h2 h3 hsketch
  have hv : smcVerdict s i = .ends .hypTrap := by
    rw [smcVerdict_of_trapApplies hrun htrap, if_pos h2]
  obtain ⟨t, hexec, -, hend⟩ := completes_of_smcVerdict_ends hv
  have hpe : t.pe = withAnswers s.cfg (sketchTakeHypTrap s.cfg s.pe s.pe.pc 4) :=
    hend.pe.trans (takeHypTrap_of_sketch ((usesSketch_iff _).2 ⟨hsketch, h3⟩) _ _ _)
  refine ⟨t, hexec, ?_⟩
  rw [hpe, withAnswers_mode, withAnswers_el, withAnswers_pc, withAnswers_iset, withAnswers_rest]
  exact ⟨rfl, rfl, rfl, isetOfT_eq_t32_iff _,
    controlBitsUnchanged_of_withAnswers hpe rfl rfl rfl, rfl⟩

/-- Settles O43: outside the two routes to Hyp mode the entry is the one to Undefined mode, in the banks of the Security
state. -/
theorem sketchOfTheUndefinedInstruction : Obligations.SketchOfTheUndefinedInstruction := by
  intro i s t h hr hsketch h3 hmode htge
  have hpe : t.pe = withAnswers s.cfg (sketchEnterUndefined s.pe s.pe.pc) := by
    rw [(raises_of_exec_next h hr).pe, ← sketchTakeUndefined_of_not_hyp s.pe.pc 4 hmode htge]
    exact takeUndefined_of_sketch ((usesSketch_iff _).2 ⟨hsketch, h3⟩) _ _ _
  rw [hpe, withAnswers_mode, withAnswers_el, withAnswers_ss, withAnswers_pc, withAnswers_iset,
    withAnswers_rest, sketchEnterUndefined, lrUndOf_eq, exceptionBase_add_four]
  refine ⟨rfl, rfl, controlBitsUnchanged_of_withAnswers hpe rfl rfl rfl, rfl,
    fun hss => ?secure, fun hss => ?nonSecure⟩
  case secure =>
    rw [currentSctlr_of_secure hss, if_pos hss, if_pos hss]
    exact ⟨rfl, rfl, isetOfT_eq_t32_iff _, rfl⟩
  case nonSecure =>
    have hnot : s.pe.ss ≠ .secure := by simp [hss]
    rw [currentSctlr_of_nonSecure hss, if_neg hnot, if_neg hnot]
    exact ⟨rfl, rfl, isetOfT_eq_t32_iff _, rfl⟩

/-- Settles O47: both routes enter Hyp mode alike, but for the vector. -/
theorem sketchOfTheUndefinedInstructionInHypMode :
    Obligations.SketchOfTheUndefinedInstructionInHypMode := by
  intro i s t h hr hsketch h3 hroute
  have hpe := (raises_of_exec_next h hr).pe.trans
    (takeUndefined_of_sketch ((usesSketch_iff _).2 ⟨hsketch, h3⟩) _ _ _)
  rw [sketchTakeUndefined_of_hyp _ _ hroute] at hpe
  rw [hpe, withAnswers_mode, withAnswers_el, withAnswers_pc, withAnswers_rest]
  exact ⟨rfl, rfl, controlBitsUnchanged_of_withAnswers hpe rfl rfl rfl, rfl, rfl, rfl⟩

end Sys2Proof.Proofs
end

section
/-! SUPPORT. The run of R118: what executions that raise nothing leave behind, and where and how a run ends. -/

namespace Sys2Proof.Machine

open Sys2Proof

/-! ## Going on -/

theorem SmcOutcome.continues_iff (o : SmcOutcome) :
    o.continues = true ↔ o = .skipped ∨ o = .nop := by
  cases o <;> simp [SmcOutcome.continues]

theorem NamedUnchanged.refl (s : State) : NamedUnchanged s s := by
  constructor <;> rfl

theorem NamedUnchanged.trans {s t u : State} (hst : NamedUnchanged s t)
    (htu : NamedUnchanged t u) : NamedUnchanged s u where
  cfg := htu.cfg.trans hst.cfg
  text := htu.text.trans hst.text
  iset := htu.iset.trans hst.iset
  el := htu.el.trans hst.el
  es := htu.es.trans hst.es
  mode := htu.mode.trans hst.mode
  ss := htu.ss.trans hst.ss
  hcrTsc := htu.hcrTsc.trans hst.hcrTsc
  scrScd := htu.scrScd.trans hst.scrScd
  scrEl3Smd := htu.scrEl3Smd.trans hst.scrEl3Smd

/-- What `k` executions that raise nothing make of `s`: the pc is `k` instructions further, ITSTATE has advanced `k`
times where it advances at all, and nothing else the source names has changed (92 D1, D9; G2). -/
structure MovedOn (k : Nat) (s t : State) : Prop where
  named : NamedUnchanged s t
  butIt : t.pe.rest = { s.pe.rest with psr := { s.pe.rest.psr with it := t.pe.rest.psr.it } }
  pc : t.pe.pc = s.pe.pc + BitVec.ofNat 32 (4 * k)
  it : t.pe.rest.psr.it =
    if s.cfg.condition = .standard ∧ s.pe.iset = .t32 then itAdvance^[k] s.pe.rest.psr.it
    else s.pe.rest.psr.it

theorem MovedOn.refl (s : State) : MovedOn 0 s s where
  named := NamedUnchanged.refl s
  butIt := rfl
  pc := by simp
  it := by simp

theorem MovedOn.trans {j k : Nat} {s t u : State} (hst : MovedOn j s t) (htu : MovedOn k t u) :
    MovedOn (j + k) s u where
  named := hst.named.trans htu.named
  butIt := htu.butIt.trans (by rw [hst.butIt])
  pc := by rw [htu.pc, hst.pc, BitVec.add_assoc, ← BitVec.ofNat_add, ← Nat.mul_add]
  it := by
    rw [htu.it, hst.it, hst.named.cfg, hst.named.iset, Nat.add_comm j k]
    split
    · rw [Function.iterate_add_apply]
    · rfl

/-- A step that is reported as Skipped or Nop moves on by one instruction (R72). -/
theorem movedOn_one_of_step {s t : State} {r : Report} (h : step s = .next t)
    (hr : t.last = some r) (hgo : r.outcome.continues = true) : MovedOn 1 s t := by
  obtain ⟨w, i, -, -, -, hexec⟩ := step_next_cases h
  obtain ⟨hpc, hnamed, hrest⟩ := Proofs.skippedAndNopGoOnAtTheNextInstruction i s t r hexec hr
    (r.outcome.continues_iff.1 hgo)
  exact { named := hnamed, butIt := hrest.butIt, pc := hpc, it := hrest.it }

/-! ## The end of a run -/

/-- How a run that stands at `u` with `m` executions left ends there: it has none left, or its next step is one after
which it does not go on (R118, 92 D19). -/
inductive EndsAt (u : State) : Nat → RunEnd → Prop where
  | running : EndsAt u 0 (.running u)
  | textEnded {m : Nat} {f : Fault} : step u = .fault f → EndsAt u (m + 1) (.textEnded u)
  | refused {m : Nat} {r : Refusal} : step u = .refused r → EndsAt u (m + 1) (.refused r u)
  | raised {m : Nat} {r : Report} {t : State} : step u = .next t → t.last = some r →
      r.outcome.continues = false → EndsAt u (m + 1) (.raised r t)

/-- The next step of a run ends it, or the run goes on from the state that the step answers. -/
theorem runOf_succ_cases (n : Nat) (s : State) :
    EndsAt s (n + 1) (runOf (n + 1) s) ∨
    ∃ t, MovedOn 1 s t ∧ runOf (n + 1) s = runOf n t := by
  cases hstep : step s with
  | fault f =>
    simp only [runOf, hstep]
    exact .inl (.textEnded hstep)
  | refused r =>
    simp only [runOf, hstep]
    exact .inl (.refused hstep)
  | next t =>
    obtain ⟨-, -, o, hlast⟩ := step_next_frame hstep
    cases hgo : o.continues with
    | true =>
      have hrun : runOf (n + 1) s = runOf n t := by simp only [runOf, hstep, hlast, hgo, if_true]
      exact .inr ⟨t, movedOn_one_of_step hstep hlast hgo, hrun⟩
    | false =>
      simp only [runOf, hstep, hlast, hgo, Bool.false_eq_true, if_false]
      exact .inl (.raised hstep hlast hgo)

/-- Every run moves on by some number of instructions and ends where it then stands. -/
theorem exists_movedOn_endsAt (n : Nat) (s : State) :
    ∃ k m u, k + m = n ∧ MovedOn k s u ∧ EndsAt u m (runOf n s) := by
  induction n generalizing s with
  | zero => exact ⟨0, 0, s, rfl, MovedOn.refl s, .running⟩
  | succ n ih =>
    obtain hend | ⟨t, hst, hrun⟩ := runOf_succ_cases n s
    · exact ⟨0, n + 1, s, Nat.zero_add _, MovedOn.refl s, hend⟩
    · obtain ⟨k, m, u, hn, htu, hend⟩ := ih t
      exact ⟨1 + k, m, u, by omega, hst.trans htu, hrun ▸ hend⟩

/-- A run that has raised nothing ends in the state where it stands. -/
theorem EndsAt.eq_of_not_raised {u t : State} {m : Nat} {e : RunEnd} (h : EndsAt u m e)
    (he : e = .running t ∨ e = .textEnded t ∨ ∃ r, e = .refused r t) : t = u := by
  obtain rfl | rfl | ⟨r, rfl⟩ := he
  · cases h with | running => rfl
  · cases h with | textEnded => rfl
  · cases h with | refused => rfl

end Sys2Proof.Machine
end

section
/-! The statements of 70_reset_and_hazards.md: where a run goes and how it ends. -/

namespace Sys2Proof.Proofs

open Sys2Proof Sys2Proof.Machine

/-- Settles O36: a run that has raised nothing stands where it has moved on to. -/
theorem runWithoutExceptionOnlyMovesThePc : Obligations.RunWithoutExceptionOnlyMovesThePc := by
  intro n s t h
  obtain ⟨k, m, u, hn, hmoved, hend⟩ := exists_movedOn_endsAt n s
  obtain rfl := hend.eq_of_not_raised h
  exact ⟨hmoved.named, hmoved.butIt, k, by omega, hmoved.pc, hmoved.it⟩

/-- Settles O37: the event is raised by the step after the last that went on, and the fetch of that step reads the
starting text in the starting instruction set. -/
theorem runEndsAtTheFirstException : Obligations.RunEndsAtTheFirstException := by
  intro n s t r h
  obtain ⟨k, m, u, hn, hmoved, hend⟩ := exists_movedOn_endsAt n s
  rw [h] at hend
  cases hend with | raised hstep hlast hstop
  obtain ⟨hskipped, hnop⟩ : r.outcome ≠ .skipped ∧ r.outcome ≠ .nop := by
    rw [← not_or, ← SmcOutcome.continues_iff, hstop]
    exact Bool.false_ne_true
  obtain ⟨w, i, -, hfetch, hdecode, hexec⟩ := step_next_cases hstep
  have hevent := raises_of_exec_next hexec hlast
  have haddr : r.addr = u.pe.pc :=
    congrArg Report.addr (Option.some.inj (hlast.symm.trans hevent.last))
  refine ⟨hskipped, hnop, hlast,
    hevent.cfg.trans hmoved.named.cfg, hevent.text.trans hmoved.named.text,
    promises_of_exec_next hexec hlast, ⟨w, ?fetched, i, ?decoded⟩, k, by omega, ?address⟩
  case fetched => rw [haddr, ← hmoved.named.text]; exact hfetch
  case decoded => rw [← hmoved.named.iset]; exact hdecode
  case address => rw [haddr, hmoved.pc]

end Sys2Proof.Proofs
end
